-- ==== Sys2Proof/Word.lean ====
section
/-! DEFINITION. The two word types of the core: a byte and a 16-bit address (spec 00_scope.md R5, R7). -/

namespace Sys2Proof

/-- A memory cell, a register A, X, Y or SP, an instruction byte: 8 bits (R5). -/
abbrev Byte := BitVec 8

/-- A bus address, and the program counter: 16 bits (R5). -/
abbrev Addr := BitVec 16

end Sys2Proof
end

