-- ==== Sys2Proof/Config.lean ====
section
/-! DEFINITION. What the spec leaves to the platform: the free values (opaque constants without a body) and the
plain data they are applied to. Nothing can be proved about the value of any constant of this file. -/

namespace Sys2Proof

/-- A controller port (spec 60_exceptions.md R264). -/
inductive Port where
  /-- port 1, read at 0x4016 -/
  | one
  /-- port 2, read at 0x4017 -/
  | two
  deriving DecidableEq, Repr

/-- How the nametables share storage (20_memory.md R82). -/
inductive Machine.Mirroring where
  | horizontal
  | vertical
  | fourScreen
  | oneScreenLow
  | oneScreenHigh
  deriving DecidableEq, Repr, Inhabited

/-- One thing the devices around the core have seen (20_memory.md R60; 92_eei_decisions.md D19: "device writes are
events emitted to the platform"). The list of all of them is what a device's answer may depend on. -/
inductive IoEvent where
  /-- the core or a DMA read the register (R60) -/
  | read (reg : Addr)
  /-- the core wrote the register (R60) -/
  | write (reg : Addr) (value : Byte)
  /-- a sprite DMA copied these bytes of a page to sprite memory (60_exceptions.md R265) -/
  | dma (page : Byte) (bytes : List Byte)
  /-- the host reset PPU and APU (70_reset_and_hazards.md R303) -/
  | deviceReset
  /-- the host wrote a controller's button bitmap (60_exceptions.md R264) -/
  | buttons (port : Port) (bitmap : Byte)
  deriving DecidableEq, Repr

/-- What a device holds behind one of its registers, and so what a read of the register may show. -/
inductive DeviceData where
  /-- nothing the spec names -/
  | nothing
  /-- the PPU's two status flags, at 0x2002 (60_exceptions.md R262) -/
  | status (verticalBlank sprite0Hit : Bool)
  /-- the byte of sprite memory at 0x2004, of the PictureBus at 0x2007 (20_memory.md R82, Table R53) -/
  | byte (v : Byte)
  /-- a controller's latched button bitmap, at 0x4016 and 0x4017 (60_exceptions.md R264) -/
  | latched (bitmap : Byte)
  deriving DecidableEq, Repr

/-- FREE VALUE (log entry 6). What a device register answers to a read: parameter `io_read` of 00_scope.md R5, an
oracle (20_memory.md R60, D19). It may depend on everything the devices have seen so far, on the time, on the register
and on what the device holds behind it. -/
opaque Config.ioRead (seen : List IoEvent) (cycles : Nat) (reg : Addr) (holds : DeviceData) : Byte

/-- What a PictureBus address is decoded to (20_memory.md R82). The four nametables are named by their place, so that no
numbering of them is assumed. -/
inductive PictureTarget where
  /-- mapper-banked graphics memory, at the address the mapper is given -/
  | graphics (a : Addr)
  /-- a byte of one of the four logical nametables -/
  | nametable (bottom right : Bool) (offset : Addr)
  /-- palette RAM -/
  | palette (offset : Addr)
  deriving DecidableEq, Repr, Inhabited

/-- FREE VALUE (log entry 35). The PictureBus's address decoder: which addresses are graphics memory, nametables and
palette RAM is not in the spec (20_memory.md R82). -/
opaque Config.pictureDecode (a : Addr) : PictureTarget

/-- FREE VALUE (log entry 36). The PictureBus address the data register 0x2007 moves a byte at, after what the devices
have seen: the order of the two writes of 0x2006 and what an access of 0x2007 adds are not in the spec (Table R53). -/
opaque Config.pictureAddress (seen : List IoEvent) : Addr

/-- FREE VALUE (log entry 37). Whether a byte other than 0x00 written to 0x4016 is "a strobe write of 0": the strobe's
place in the byte is not in the spec (60_exceptions.md R264, N15). -/
opaque Config.strobeIsZero (v : Byte) : Bool

/-- FREE VALUE (log entry 20). One less than the parameter `CYCLES_PER_FRAME` (D12). -/
opaque Config.cyclesPerFramePred : Nat

/-- Parameter `CYCLES_PER_FRAME`, a positive integer (D12), of which nothing else is known (log entry 20). -/
def Config.cyclesPerFrame : { n : Nat // 0 < n } := ⟨Config.cyclesPerFramePred + 1, Nat.succ_pos _⟩

/-- FREE VALUE (log entry 15). The bank the switchable-program mapper selects when the cartridge is inserted
(70_reset_and_hazards.md R311). -/
opaque Config.insertedBank : Byte

/-- FREE VALUE (log entry 15). The graphics bank selected when the cartridge is inserted. -/
opaque Config.insertedChrBank : BitVec 2

/-- FREE VALUE (log entry 15). The shift-register mapper's four internal registers at insertion. -/
opaque Config.insertedRegs : Vector (BitVec 5) 4

/-- FREE VALUE (log entry 15). Whether the shift-register mapper is in its fixed-last-bank mode at insertion (R311). -/
opaque Config.insertedFixedLast : Bool

/-- FREE VALUE (log entry 14). The 5-bit value assembled from the bytes of five qualifying writes, oldest first:
which bit of each enters and in which order is not in the spec (20_memory.md R72, N14). -/
opaque Config.shiftAssemble (bytes : List Byte) : BitVec 5

/-- FREE VALUE (log entry 14). Which internal register an address of 0xA000-0xFFFF selects (R72, N14). -/
opaque Config.shiftRegister (addr : Addr) : Fin 4

/-- FREE VALUE (log entry 14). Whether the program mode is fixed-last-bank after a value is dispatched to an
internal register (R72, N14). -/
opaque Config.shiftFixedLast (reg : Fin 4) (value : BitVec 5) (before : Bool) : Bool

/-- FREE VALUE (log entry 26). The mirroring mode after a value is dispatched by a write at 0xA000-0xFFFF: each internal
register "may change mirroring mode" (R72), and which of their bits do is not in the spec (N14). -/
opaque Config.shiftMirroring (addr : Addr) (value : BitVec 5) (before : Machine.Mirroring) : Machine.Mirroring

/-- FREE VALUE (log entry 14). Where in the program image the shift-register mapper finds an address of the program
window, before reduction modulo the image's size (R70, R72, N14). -/
opaque Config.shiftPrgOffset (regs : Vector (BitVec 5) 4) (fixedLast : Bool) (addr : Addr) : Nat

/-- FREE VALUE (log entry 14). Where in the graphics memory the shift-register mapper finds a graphics address, before
reduction modulo its size (R70, R72, N14). -/
opaque Config.shiftChrOffset (regs : Vector (BitVec 5) 4) (addr : Addr) : Nat

/-- FREE VALUE (log entry 31). Where in sprite memory the next byte lands after what the devices have seen: R265 does
not say where a DMA lands, nor any rule what selects a byte for the data register 0x2004. -/
opaque Config.oamAddress (seen : List IoEvent) : Byte

/-- FREE VALUE (log entry 30). One less than the dots of a scanline: "up to 341 dots each" (60_exceptions.md R262). -/
opaque Config.dotsInScanlinePred (frame scanline : Nat) (mask : Byte) : Fin 341

/-- FREE VALUE (log entry 30). How many scanlines beyond the first are pre-render: R262 gives 262 scanlines, 240 of them
render, and does not divide the other 22. -/
opaque Config.preRenderExtra : Fin 20

/-- FREE VALUE (log entry 30). How many scanlines beyond the first are post-render, before reduction to what the
pre-render scanlines and one vertical-blank scanline leave. -/
opaque Config.postRenderExtra : Nat

/-- FREE VALUE (log entry 31). The vertical-blank and sprite 0 flags after the PPU enters pre-render ("register
latching", R262), from the frame and what they were. -/
opaque Config.statusAtPreRender (frame : Nat) (before : Bool × Bool) : Bool × Bool

end Sys2Proof
end

