-- ==== Sys2Proof/Syntax.lean ====
section
/-! DEFINITION. The instructions (spec 30_encoding.md R107). A row of spec/opcode_table.json is a constructor of
`Instr` together with the operand form the row's addressing mode names (log entry 23); the 105 ILLEGAL rows are the
constructor `illegal` with their byte. -/

namespace Sys2Proof

/-- A memory operand, by addressing mode, with its operand bytes (30_encoding.md R96-R101, R103, R104). -/
inductive Mem where
  /-- zero page, R96 -/
  | zp (z : Byte)
  /-- zero page indexed by X, R97 -/
  | zpx (z : Byte)
  /-- zero page indexed by Y, R98 -/
  | zpy (z : Byte)
  /-- absolute, R99 -/
  | abs (base : Addr)
  /-- absolute indexed by X, R100 -/
  | absx (base : Addr)
  /-- absolute indexed by Y, R101 -/
  | absy (base : Addr)
  /-- indexed indirect, (zp,X), R103 -/
  | indx (z : Byte)
  /-- indirect indexed, (zp),Y, R104 -/
  | indy (z : Byte)
  deriving DecidableEq, Repr

/-- An operand that is read: the byte after the opcode (mode imm, R95) or a memory operand. -/
inductive Src where
  | imm (value : Byte)
  | mem (m : Mem)
  deriving DecidableEq, Repr

/-- An operand a shift reads and writes: A (mode acc, R94) or a memory operand. -/
inductive Shf where
  | acc
  | mem (m : Mem)
  deriving DecidableEq, Repr

/-- A jump's target: the address itself (mode abs, R99) or the address of a pointer (mode ind, R102). -/
inductive Target where
  | abs (target : Addr)
  | ind (ptr : Addr)
  deriving DecidableEq, Repr

/-- The instructions, by family of the spec. -/
inductive Instr where
  -- 40_load_store_transfer.md
  | lda (o : Src)
  | ldx (o : Src)
  | ldy (o : Src)
  | sta (m : Mem)
  | stx (m : Mem)
  | sty (m : Mem)
  | tax
  | tay
  | txa
  | tya
  | tsx
  | txs
  -- 41_stack.md
  | pha
  | php
  | pla
  | plp
  -- 42_arithmetic.md
  | adc (o : Src)
  | sbc (o : Src)
  | cmp (o : Src)
  | cpx (o : Src)
  | cpy (o : Src)
  | inc (m : Mem)
  | inx
  | iny
  | dec (m : Mem)
  | dex
  | dey
  -- 43_logic_shift.md
  | and (o : Src)
  | ora (o : Src)
  | eor (o : Src)
  | bit (m : Mem)
  | asl (o : Shf)
  | lsr (o : Shf)
  | rol (o : Shf)
  | ror (o : Shf)
  -- 44_control_flow.md
  | jmp (t : Target)
  | jsr (target : Addr)
  | rts
  | bcc (d : Byte)
  | bcs (d : Byte)
  | beq (d : Byte)
  | bne (d : Byte)
  | bmi (d : Byte)
  | bpl (d : Byte)
  | bvc (d : Byte)
  | bvs (d : Byte)
  -- 45_flags_system.md
  | clc
  | sec
  | cli
  | sei
  | clv
  | cld
  | sed
  | nop
  | brk
  | rti
  -- 30_encoding.md R110
  | illegal (op : Byte)
  deriving DecidableEq, Repr

end Sys2Proof
end

