-- ==== Sys2Proof/WellFormed.lean ====
section
/-! DEFINITION. Which operand forms each instruction has (spec 30_encoding.md R107), and which bytes are illegal
opcodes (Table R110). The decoder yields only well-formed instructions; an ill-formed one has no encoding. -/

namespace Sys2Proof

/-- The eight forms of LDA, ADC, SBC, CMP, AND, ORA, EOR (Table R130 and its like): every form but zpy. -/
def Src.wfAlu : Src → Bool
  | .mem (.zpy _) => false
  | _ => true

/-- The five forms of LDX (Table R131). -/
def Src.wfLdx : Src → Bool
  | .imm _ | .mem (.zp _) | .mem (.zpy _) | .mem (.abs _) | .mem (.absy _) => true
  | _ => false

/-- The five forms of LDY (Table R132). -/
def Src.wfLdy : Src → Bool
  | .imm _ | .mem (.zp _) | .mem (.zpx _) | .mem (.abs _) | .mem (.absx _) => true
  | _ => false

/-- The three forms of CPX and CPY (Tables R163, R164). -/
def Src.wfCpxy : Src → Bool
  | .imm _ | .mem (.zp _) | .mem (.abs _) => true
  | _ => false

/-- The seven forms of STA (Table R133). -/
def Mem.wfSta : Mem → Bool
  | .zpy _ => false
  | _ => true

/-- The three forms of STX (Table R134). -/
def Mem.wfStx : Mem → Bool
  | .zp _ | .zpy _ | .abs _ => true
  | _ => false

/-- The three forms of STY (Table R135). -/
def Mem.wfSty : Mem → Bool
  | .zp _ | .zpx _ | .abs _ => true
  | _ => false

/-- The four memory forms of INC, DEC and the shifts (Tables R165, R168, R184-R187). -/
def Mem.wfRmw : Mem → Bool
  | .zp _ | .zpx _ | .abs _ | .absx _ => true
  | _ => false

/-- The two forms of BIT (Table R183). -/
def Mem.wfBit : Mem → Bool
  | .zp _ | .abs _ => true
  | _ => false

/-- The accumulator form and the four memory forms of the shifts (Tables R184-R187). -/
def Shf.wf : Shf → Bool
  | .acc => true
  | .mem m => m.wfRmw

/-- The low nibbles of the illegal opcode bytes, by high nibble: Table R110 row by row. -/
def illegalLows : Nat → List Nat
  | 0x0 => [0x2, 0x3, 0x4, 0x7, 0xB, 0xC, 0xF]
  | 0x1 => [0x2, 0x3, 0x4, 0x7, 0xA, 0xB, 0xC, 0xF]
  | 0x2 => [0x2, 0x3, 0x7, 0xB, 0xF]
  | 0x3 => [0x2, 0x3, 0x4, 0x7, 0xA, 0xB, 0xC, 0xF]
  | 0x4 => [0x2, 0x3, 0x4, 0x7, 0xB, 0xF]
  | 0x5 => [0x2, 0x3, 0x4, 0x7, 0xA, 0xB, 0xC, 0xF]
  | 0x6 => [0x2, 0x3, 0x4, 0x7, 0xB, 0xF]
  | 0x7 => [0x2, 0x3, 0x4, 0x7, 0xA, 0xB, 0xC, 0xF]
  | 0x8 => [0x0, 0x2, 0x3, 0x7, 0x9, 0xB, 0xF]
  | 0x9 => [0x2, 0x3, 0x7, 0xB, 0xC, 0xE, 0xF]
  | 0xA => [0x3, 0x7, 0xB, 0xF]
  | 0xB => [0x2, 0x3, 0x7, 0xB, 0xF]
  | 0xC => [0x2, 0x3, 0x7, 0xB, 0xF]
  | 0xD => [0x2, 0x3, 0x4, 0x7, 0xA, 0xB, 0xC, 0xF]
  | 0xE => [0x2, 0x3, 0x7, 0xB, 0xF]
  | 0xF => [0x2, 0x3, 0x4, 0x7, 0xA, 0xB, 0xC, 0xF]
  | _ => []

/-- The byte is one of the 105 of Table R110. -/
def isIllegal (op : Byte) : Bool := (illegalLows (op.toNat / 16)).contains (op.toNat % 16)

/-- The instruction has an encoding: its operand form is one the table gives it. -/
def Instr.wf : Instr → Bool
  | .lda o | .adc o | .sbc o | .cmp o | .and o | .ora o | .eor o => o.wfAlu
  | .ldx o => o.wfLdx
  | .ldy o => o.wfLdy
  | .cpx o | .cpy o => o.wfCpxy
  | .sta m => m.wfSta
  | .stx m => m.wfStx
  | .sty m => m.wfSty
  | .inc m | .dec m => m.wfRmw
  | .bit m => m.wfBit
  | .asl o | .lsr o | .rol o | .ror o => o.wf
  | .illegal op => isIllegal op
  | .tax | .tay | .txa | .tya | .tsx | .txs | .pha | .php | .pla | .plp | .inx | .iny | .dex | .dey
  | .jmp _ | .jsr _ | .rts | .bcc _ | .bcs _ | .beq _ | .bne _ | .bmi _ | .bpl _ | .bvc _ | .bvs _
  | .clc | .sec | .cli | .sei | .clv | .cld | .sed | .nop | .brk | .rti => true

end Sys2Proof
end

