-- ==== Sys2Proof/Decode.lean ====
section
/-! DEFINITION. Decoding (spec 30_encoding.md R90-R92, R107, R108, R110, R111): the decoder from the opcode matrix
of Table R108, and after it the encoder from the encoding tables of the instruction rules (Tables R130 to R229). -/

namespace Sys2Proof

/-- `hi8 : lo8` of 00_scope.md R7: a 16-bit value from its two bytes. -/
def word16 (hi lo : Byte) : Addr := (hi ++ lo : BitVec 16)

/-- Bits 15:8. -/
def hiByte (w : Addr) : Byte := w.extractLsb' 8 8

/-- Bits 7:0. -/
def loByte (w : Addr) : Byte := w.extractLsb' 0 8

/-- Row 0x of the opcode matrix (Table R108), by the opcode's low nibble. -/
def matrixRow0 (lo : Nat) (b1 b2 : Byte) : Option Instr :=
  match lo with
  | 0x0 => some .brk
  | 0x1 => some (.ora (.mem (.indx b1)))
  | 0x5 => some (.ora (.mem (.zp b1)))
  | 0x6 => some (.asl (.mem (.zp b1)))
  | 0x8 => some .php
  | 0x9 => some (.ora (.imm b1))
  | 0xA => some (.asl .acc)
  | 0xD => some (.ora (.mem (.abs (word16 b2 b1))))
  | 0xE => some (.asl (.mem (.abs (word16 b2 b1))))
  | _ => none

/-- Row 1x of the opcode matrix (Table R108), by the opcode's low nibble. -/
def matrixRow1 (lo : Nat) (b1 b2 : Byte) : Option Instr :=
  match lo with
  | 0x0 => some (.bpl b1)
  | 0x1 => some (.ora (.mem (.indy b1)))
  | 0x5 => some (.ora (.mem (.zpx b1)))
  | 0x6 => some (.asl (.mem (.zpx b1)))
  | 0x8 => some .clc
  | 0x9 => some (.ora (.mem (.absy (word16 b2 b1))))
  | 0xD => some (.ora (.mem (.absx (word16 b2 b1))))
  | 0xE => some (.asl (.mem (.absx (word16 b2 b1))))
  | _ => none

/-- Row 2x of the opcode matrix (Table R108), by the opcode's low nibble. -/
def matrixRow2 (lo : Nat) (b1 b2 : Byte) : Option Instr :=
  match lo with
  | 0x0 => some (.jsr (word16 b2 b1))
  | 0x1 => some (.and (.mem (.indx b1)))
  | 0x4 => some (.bit (.zp b1))
  | 0x5 => some (.and (.mem (.zp b1)))
  | 0x6 => some (.rol (.mem (.zp b1)))
  | 0x8 => some .plp
  | 0x9 => some (.and (.imm b1))
  | 0xA => some (.rol .acc)
  | 0xC => some (.bit (.abs (word16 b2 b1)))
  | 0xD => some (.and (.mem (.abs (word16 b2 b1))))
  | 0xE => some (.rol (.mem (.abs (word16 b2 b1))))
  | _ => none

/-- Row 3x of the opcode matrix (Table R108), by the opcode's low nibble. -/
def matrixRow3 (lo : Nat) (b1 b2 : Byte) : Option Instr :=
  match lo with
  | 0x0 => some (.bmi b1)
  | 0x1 => some (.and (.mem (.indy b1)))
  | 0x5 => some (.and (.mem (.zpx b1)))
  | 0x6 => some (.rol (.mem (.zpx b1)))
  | 0x8 => some .sec
  | 0x9 => some (.and (.mem (.absy (word16 b2 b1))))
  | 0xD => some (.and (.mem (.absx (word16 b2 b1))))
  | 0xE => some (.rol (.mem (.absx (word16 b2 b1))))
  | _ => none

/-- Row 4x of the opcode matrix (Table R108), by the opcode's low nibble. -/
def matrixRow4 (lo : Nat) (b1 b2 : Byte) : Option Instr :=
  match lo with
  | 0x0 => some .rti
  | 0x1 => some (.eor (.mem (.indx b1)))
  | 0x5 => some (.eor (.mem (.zp b1)))
  | 0x6 => some (.lsr (.mem (.zp b1)))
  | 0x8 => some .pha
  | 0x9 => some (.eor (.imm b1))
  | 0xA => some (.lsr .acc)
  | 0xC => some (.jmp (.abs (word16 b2 b1)))
  | 0xD => some (.eor (.mem (.abs (word16 b2 b1))))
  | 0xE => some (.lsr (.mem (.abs (word16 b2 b1))))
  | _ => none

/-- Row 5x of the opcode matrix (Table R108), by the opcode's low nibble. -/
def matrixRow5 (lo : Nat) (b1 b2 : Byte) : Option Instr :=
  match lo with
  | 0x0 => some (.bvc b1)
  | 0x1 => some (.eor (.mem (.indy b1)))
  | 0x5 => some (.eor (.mem (.zpx b1)))
  | 0x6 => some (.lsr (.mem (.zpx b1)))
  | 0x8 => some .cli
  | 0x9 => some (.eor (.mem (.absy (word16 b2 b1))))
  | 0xD => some (.eor (.mem (.absx (word16 b2 b1))))
  | 0xE => some (.lsr (.mem (.absx (word16 b2 b1))))
  | _ => none

/-- Row 6x of the opcode matrix (Table R108), by the opcode's low nibble. -/
def matrixRow6 (lo : Nat) (b1 b2 : Byte) : Option Instr :=
  match lo with
  | 0x0 => some .rts
  | 0x1 => some (.adc (.mem (.indx b1)))
  | 0x5 => some (.adc (.mem (.zp b1)))
  | 0x6 => some (.ror (.mem (.zp b1)))
  | 0x8 => some .pla
  | 0x9 => some (.adc (.imm b1))
  | 0xA => some (.ror .acc)
  | 0xC => some (.jmp (.ind (word16 b2 b1)))
  | 0xD => some (.adc (.mem (.abs (word16 b2 b1))))
  | 0xE => some (.ror (.mem (.abs (word16 b2 b1))))
  | _ => none

/-- Row 7x of the opcode matrix (Table R108), by the opcode's low nibble. -/
def matrixRow7 (lo : Nat) (b1 b2 : Byte) : Option Instr :=
  match lo with
  | 0x0 => some (.bvs b1)
  | 0x1 => some (.adc (.mem (.indy b1)))
  | 0x5 => some (.adc (.mem (.zpx b1)))
  | 0x6 => some (.ror (.mem (.zpx b1)))
  | 0x8 => some .sei
  | 0x9 => some (.adc (.mem (.absy (word16 b2 b1))))
  | 0xD => some (.adc (.mem (.absx (word16 b2 b1))))
  | 0xE => some (.ror (.mem (.absx (word16 b2 b1))))
  | _ => none

/-- Row 8x of the opcode matrix (Table R108), by the opcode's low nibble. -/
def matrixRow8 (lo : Nat) (b1 b2 : Byte) : Option Instr :=
  match lo with
  | 0x1 => some (.sta (.indx b1))
  | 0x4 => some (.sty (.zp b1))
  | 0x5 => some (.sta (.zp b1))
  | 0x6 => some (.stx (.zp b1))
  | 0x8 => some .dey
  | 0xA => some .txa
  | 0xC => some (.sty (.abs (word16 b2 b1)))
  | 0xD => some (.sta (.abs (word16 b2 b1)))
  | 0xE => some (.stx (.abs (word16 b2 b1)))
  | _ => none

/-- Row 9x of the opcode matrix (Table R108), by the opcode's low nibble. -/
def matrixRow9 (lo : Nat) (b1 b2 : Byte) : Option Instr :=
  match lo with
  | 0x0 => some (.bcc b1)
  | 0x1 => some (.sta (.indy b1))
  | 0x4 => some (.sty (.zpx b1))
  | 0x5 => some (.sta (.zpx b1))
  | 0x6 => some (.stx (.zpy b1))
  | 0x8 => some .tya
  | 0x9 => some (.sta (.absy (word16 b2 b1)))
  | 0xA => some .txs
  | 0xD => some (.sta (.absx (word16 b2 b1)))
  | _ => none

/-- Row Ax of the opcode matrix (Table R108), by the opcode's low nibble. -/
def matrixRowA (lo : Nat) (b1 b2 : Byte) : Option Instr :=
  match lo with
  | 0x0 => some (.ldy (.imm b1))
  | 0x1 => some (.lda (.mem (.indx b1)))
  | 0x2 => some (.ldx (.imm b1))
  | 0x4 => some (.ldy (.mem (.zp b1)))
  | 0x5 => some (.lda (.mem (.zp b1)))
  | 0x6 => some (.ldx (.mem (.zp b1)))
  | 0x8 => some .tay
  | 0x9 => some (.lda (.imm b1))
  | 0xA => some .tax
  | 0xC => some (.ldy (.mem (.abs (word16 b2 b1))))
  | 0xD => some (.lda (.mem (.abs (word16 b2 b1))))
  | 0xE => some (.ldx (.mem (.abs (word16 b2 b1))))
  | _ => none

/-- Row Bx of the opcode matrix (Table R108), by the opcode's low nibble. -/
def matrixRowB (lo : Nat) (b1 b2 : Byte) : Option Instr :=
  match lo with
  | 0x0 => some (.bcs b1)
  | 0x1 => some (.lda (.mem (.indy b1)))
  | 0x4 => some (.ldy (.mem (.zpx b1)))
  | 0x5 => some (.lda (.mem (.zpx b1)))
  | 0x6 => some (.ldx (.mem (.zpy b1)))
  | 0x8 => some .clv
  | 0x9 => some (.lda (.mem (.absy (word16 b2 b1))))
  | 0xA => some .tsx
  | 0xC => some (.ldy (.mem (.absx (word16 b2 b1))))
  | 0xD => some (.lda (.mem (.absx (word16 b2 b1))))
  | 0xE => some (.ldx (.mem (.absy (word16 b2 b1))))
  | _ => none

/-- Row Cx of the opcode matrix (Table R108), by the opcode's low nibble. -/
def matrixRowC (lo : Nat) (b1 b2 : Byte) : Option Instr :=
  match lo with
  | 0x0 => some (.cpy (.imm b1))
  | 0x1 => some (.cmp (.mem (.indx b1)))
  | 0x4 => some (.cpy (.mem (.zp b1)))
  | 0x5 => some (.cmp (.mem (.zp b1)))
  | 0x6 => some (.dec (.zp b1))
  | 0x8 => some .iny
  | 0x9 => some (.cmp (.imm b1))
  | 0xA => some .dex
  | 0xC => some (.cpy (.mem (.abs (word16 b2 b1))))
  | 0xD => some (.cmp (.mem (.abs (word16 b2 b1))))
  | 0xE => some (.dec (.abs (word16 b2 b1)))
  | _ => none

/-- Row Dx of the opcode matrix (Table R108), by the opcode's low nibble. -/
def matrixRowD (lo : Nat) (b1 b2 : Byte) : Option Instr :=
  match lo with
  | 0x0 => some (.bne b1)
  | 0x1 => some (.cmp (.mem (.indy b1)))
  | 0x5 => some (.cmp (.mem (.zpx b1)))
  | 0x6 => some (.dec (.zpx b1))
  | 0x8 => some .cld
  | 0x9 => some (.cmp (.mem (.absy (word16 b2 b1))))
  | 0xD => some (.cmp (.mem (.absx (word16 b2 b1))))
  | 0xE => some (.dec (.absx (word16 b2 b1)))
  | _ => none

/-- Row Ex of the opcode matrix (Table R108), by the opcode's low nibble. -/
def matrixRowE (lo : Nat) (b1 b2 : Byte) : Option Instr :=
  match lo with
  | 0x0 => some (.cpx (.imm b1))
  | 0x1 => some (.sbc (.mem (.indx b1)))
  | 0x4 => some (.cpx (.mem (.zp b1)))
  | 0x5 => some (.sbc (.mem (.zp b1)))
  | 0x6 => some (.inc (.zp b1))
  | 0x8 => some .inx
  | 0x9 => some (.sbc (.imm b1))
  | 0xA => some .nop
  | 0xC => some (.cpx (.mem (.abs (word16 b2 b1))))
  | 0xD => some (.sbc (.mem (.abs (word16 b2 b1))))
  | 0xE => some (.inc (.abs (word16 b2 b1)))
  | _ => none

/-- Row Fx of the opcode matrix (Table R108), by the opcode's low nibble. -/
def matrixRowF (lo : Nat) (b1 b2 : Byte) : Option Instr :=
  match lo with
  | 0x0 => some (.beq b1)
  | 0x1 => some (.sbc (.mem (.indy b1)))
  | 0x5 => some (.sbc (.mem (.zpx b1)))
  | 0x6 => some (.inc (.zpx b1))
  | 0x8 => some .sed
  | 0x9 => some (.sbc (.mem (.absy (word16 b2 b1))))
  | 0xD => some (.sbc (.mem (.absx (word16 b2 b1))))
  | 0xE => some (.inc (.absx (word16 b2 b1)))
  | _ => none

/-- The opcode matrix (Table R108): the instruction of a documented opcode and its operand bytes. -/
def matrix (op b1 b2 : Byte) : Option Instr :=
  let lo := op.toNat % 16
  match op.toNat / 16 with
  | 0x0 => matrixRow0 lo b1 b2
  | 0x1 => matrixRow1 lo b1 b2
  | 0x2 => matrixRow2 lo b1 b2
  | 0x3 => matrixRow3 lo b1 b2
  | 0x4 => matrixRow4 lo b1 b2
  | 0x5 => matrixRow5 lo b1 b2
  | 0x6 => matrixRow6 lo b1 b2
  | 0x7 => matrixRow7 lo b1 b2
  | 0x8 => matrixRow8 lo b1 b2
  | 0x9 => matrixRow9 lo b1 b2
  | 0xA => matrixRowA lo b1 b2
  | 0xB => matrixRowB lo b1 b2
  | 0xC => matrixRowC lo b1 b2
  | 0xD => matrixRowD lo b1 b2
  | 0xE => matrixRowE lo b1 b2
  | 0xF => matrixRowF lo b1 b2
  | _ => none

/-- The instruction that an opcode byte and the two bytes after it make (R107; R110 for a byte not in the matrix).
An operand byte the mode does not take is not looked at. -/
def ofBytes (op b1 b2 : Byte) : Instr := (matrix op b1 b2).getD (.illegal op)

/-- The number of operand bytes of a memory operand (Table R90). -/
def Mem.operandBytes : Mem → Nat
  | .zp _ | .zpx _ | .zpy _ | .indx _ | .indy _ => 1
  | .abs _ | .absx _ | .absy _ => 2

/-- The number of operand bytes of an operand that is read. -/
def Src.operandBytes : Src → Nat
  | .imm _ => 1
  | .mem m => m.operandBytes

/-- The number of operand bytes of a shift's operand. -/
def Shf.operandBytes : Shf → Nat
  | .acc => 0
  | .mem m => m.operandBytes

/-- The number of operand bytes of an instruction: its length (R90) less one. -/
def Instr.operandBytes : Instr → Nat
  | .lda o | .ldx o | .ldy o | .adc o | .sbc o | .cmp o | .cpx o | .cpy o | .and o | .ora o | .eor o => o.operandBytes
  | .sta m | .stx m | .sty m | .inc m | .dec m | .bit m => m.operandBytes
  | .asl o | .lsr o | .rol o | .ror o => o.operandBytes
  | .bcc _ | .bcs _ | .beq _ | .bne _ | .bmi _ | .bpl _ | .bvc _ | .bvs _ => 1
  | .jmp _ | .jsr _ => 2
  | .tax | .tay | .txa | .tya | .tsx | .txs | .pha | .php | .pla | .plp | .inx | .iny | .dex | .dey
  | .rts | .clc | .sec | .cli | .sei | .clv | .cld | .sed | .nop | .brk | .rti | .illegal _ => 0

/-- The opcode alone fixes how many operand bytes follow (R90, R111). -/
def operandCount (op : Byte) : Nat := (ofBytes op 0 0).operandBytes

/-- Why bytes do not decode. -/
inductive DecodeError where
  /-- there is no opcode byte -/
  | noOpcode
  /-- fewer operand bytes follow the opcode than its mode takes -/
  | missingOperand (op : Byte)
  deriving DecidableEq, Repr

/-- The decoder: the instruction at the head of a list of bytes in memory order, and the bytes after it (R90). Every
first byte decodes: one outside the matrix is an illegal opcode, an instruction of its own (R110). -/
def decode : List Byte → Except DecodeError (Instr × List Byte)
  | [] => .error .noOpcode
  | op :: rest =>
    if rest.length < operandCount op then .error (.missingOperand op)
    else .ok (ofBytes op (rest.getD 0 0) (rest.getD 1 0), rest.drop (operandCount op))

/-- The instruction read from the table's numbering of an instruction's bits: byte k is bits 8k+7..8k, the bits above
`nbits` are 0. -/
def decodeTableWord (nbits w : Nat) : Option Instr :=
  let v := w % 2 ^ nbits
  match decode [BitVec.ofNat 8 v, BitVec.ofNat 8 (v / 256), BitVec.ofNat 8 (v / 65536)] with
  | .ok (i, _) => some i
  | .error _ => none

/-! ## The encoder -/

/-- LDA: Table R130. -/
def opLda : Src → Option Byte
  | .imm _ => some 0xA9
  | .mem (.zp _) => some 0xA5
  | .mem (.zpx _) => some 0xB5
  | .mem (.abs _) => some 0xAD
  | .mem (.absx _) => some 0xBD
  | .mem (.absy _) => some 0xB9
  | .mem (.indx _) => some 0xA1
  | .mem (.indy _) => some 0xB1
  | _ => none

/-- LDX: Table R131. -/
def opLdx : Src → Option Byte
  | .imm _ => some 0xA2
  | .mem (.zp _) => some 0xA6
  | .mem (.zpy _) => some 0xB6
  | .mem (.abs _) => some 0xAE
  | .mem (.absy _) => some 0xBE
  | _ => none

/-- LDY: Table R132. -/
def opLdy : Src → Option Byte
  | .imm _ => some 0xA0
  | .mem (.zp _) => some 0xA4
  | .mem (.zpx _) => some 0xB4
  | .mem (.abs _) => some 0xAC
  | .mem (.absx _) => some 0xBC
  | _ => none

/-- STA: Table R133. -/
def opSta : Mem → Option Byte
  | .zp _ => some 0x85
  | .zpx _ => some 0x95
  | .abs _ => some 0x8D
  | .absx _ => some 0x9D
  | .absy _ => some 0x99
  | .indx _ => some 0x81
  | .indy _ => some 0x91
  | _ => none

/-- STX: Table R134. -/
def opStx : Mem → Option Byte
  | .zp _ => some 0x86
  | .zpy _ => some 0x96
  | .abs _ => some 0x8E
  | _ => none

/-- STY: Table R135. -/
def opSty : Mem → Option Byte
  | .zp _ => some 0x84
  | .zpx _ => some 0x94
  | .abs _ => some 0x8C
  | _ => none

/-- ADC: Table R160. -/
def opAdc : Src → Option Byte
  | .imm _ => some 0x69
  | .mem (.zp _) => some 0x65
  | .mem (.zpx _) => some 0x75
  | .mem (.abs _) => some 0x6D
  | .mem (.absx _) => some 0x7D
  | .mem (.absy _) => some 0x79
  | .mem (.indx _) => some 0x61
  | .mem (.indy _) => some 0x71
  | _ => none

/-- SBC: Table R161. -/
def opSbc : Src → Option Byte
  | .imm _ => some 0xE9
  | .mem (.zp _) => some 0xE5
  | .mem (.zpx _) => some 0xF5
  | .mem (.abs _) => some 0xED
  | .mem (.absx _) => some 0xFD
  | .mem (.absy _) => some 0xF9
  | .mem (.indx _) => some 0xE1
  | .mem (.indy _) => some 0xF1
  | _ => none

/-- CMP: Table R162. -/
def opCmp : Src → Option Byte
  | .imm _ => some 0xC9
  | .mem (.zp _) => some 0xC5
  | .mem (.zpx _) => some 0xD5
  | .mem (.abs _) => some 0xCD
  | .mem (.absx _) => some 0xDD
  | .mem (.absy _) => some 0xD9
  | .mem (.indx _) => some 0xC1
  | .mem (.indy _) => some 0xD1
  | _ => none

/-- CPX: Table R163. -/
def opCpx : Src → Option Byte
  | .imm _ => some 0xE0
  | .mem (.zp _) => some 0xE4
  | .mem (.abs _) => some 0xEC
  | _ => none

/-- CPY: Table R164. -/
def opCpy : Src → Option Byte
  | .imm _ => some 0xC0
  | .mem (.zp _) => some 0xC4
  | .mem (.abs _) => some 0xCC
  | _ => none

/-- INC: Table R165. -/
def opInc : Mem → Option Byte
  | .zp _ => some 0xE6
  | .zpx _ => some 0xF6
  | .abs _ => some 0xEE
  | .absx _ => some 0xFE
  | _ => none

/-- DEC: Table R168. -/
def opDec : Mem → Option Byte
  | .zp _ => some 0xC6
  | .zpx _ => some 0xD6
  | .abs _ => some 0xCE
  | .absx _ => some 0xDE
  | _ => none

/-- AND: Table R180. -/
def opAnd : Src → Option Byte
  | .imm _ => some 0x29
  | .mem (.zp _) => some 0x25
  | .mem (.zpx _) => some 0x35
  | .mem (.abs _) => some 0x2D
  | .mem (.absx _) => some 0x3D
  | .mem (.absy _) => some 0x39
  | .mem (.indx _) => some 0x21
  | .mem (.indy _) => some 0x31
  | _ => none

/-- ORA: Table R181. -/
def opOra : Src → Option Byte
  | .imm _ => some 0x09
  | .mem (.zp _) => some 0x05
  | .mem (.zpx _) => some 0x15
  | .mem (.abs _) => some 0x0D
  | .mem (.absx _) => some 0x1D
  | .mem (.absy _) => some 0x19
  | .mem (.indx _) => some 0x01
  | .mem (.indy _) => some 0x11
  | _ => none

/-- EOR: Table R182. -/
def opEor : Src → Option Byte
  | .imm _ => some 0x49
  | .mem (.zp _) => some 0x45
  | .mem (.zpx _) => some 0x55
  | .mem (.abs _) => some 0x4D
  | .mem (.absx _) => some 0x5D
  | .mem (.absy _) => some 0x59
  | .mem (.indx _) => some 0x41
  | .mem (.indy _) => some 0x51
  | _ => none

/-- BIT: Table R183. -/
def opBit : Mem → Option Byte
  | .zp _ => some 0x24
  | .abs _ => some 0x2C
  | _ => none

/-- ASL: Table R184. -/
def opAsl : Shf → Option Byte
  | .acc => some 0x0A
  | .mem (.zp _) => some 0x06
  | .mem (.zpx _) => some 0x16
  | .mem (.abs _) => some 0x0E
  | .mem (.absx _) => some 0x1E
  | _ => none

/-- LSR: Table R185. -/
def opLsr : Shf → Option Byte
  | .acc => some 0x4A
  | .mem (.zp _) => some 0x46
  | .mem (.zpx _) => some 0x56
  | .mem (.abs _) => some 0x4E
  | .mem (.absx _) => some 0x5E
  | _ => none

/-- ROL: Table R186. -/
def opRol : Shf → Option Byte
  | .acc => some 0x2A
  | .mem (.zp _) => some 0x26
  | .mem (.zpx _) => some 0x36
  | .mem (.abs _) => some 0x2E
  | .mem (.absx _) => some 0x3E
  | _ => none

/-- ROR: Table R187. -/
def opRor : Shf → Option Byte
  | .acc => some 0x6A
  | .mem (.zp _) => some 0x66
  | .mem (.zpx _) => some 0x76
  | .mem (.abs _) => some 0x6E
  | .mem (.absx _) => some 0x7E
  | _ => none

/-- The opcode byte, where the instruction has an encoding. -/
def Instr.opcode : Instr → Option Byte
  | .lda o => opLda o
  | .ldx o => opLdx o
  | .ldy o => opLdy o
  | .sta m => opSta m
  | .stx m => opStx m
  | .sty m => opSty m
  | .tax => some 0xAA
  | .tay => some 0xA8
  | .txa => some 0x8A
  | .tya => some 0x98
  | .tsx => some 0xBA
  | .txs => some 0x9A
  | .pha => some 0x48
  | .php => some 0x08
  | .pla => some 0x68
  | .plp => some 0x28
  | .adc o => opAdc o
  | .sbc o => opSbc o
  | .cmp o => opCmp o
  | .cpx o => opCpx o
  | .cpy o => opCpy o
  | .inc m => opInc m
  | .inx => some 0xE8
  | .iny => some 0xC8
  | .dec m => opDec m
  | .dex => some 0xCA
  | .dey => some 0x88
  | .and o => opAnd o
  | .ora o => opOra o
  | .eor o => opEor o
  | .bit m => opBit m
  | .asl o => opAsl o
  | .lsr o => opLsr o
  | .rol o => opRol o
  | .ror o => opRor o
  | .jmp (.abs _) => some 0x4C
  | .jmp (.ind _) => some 0x6C
  | .jsr _ => some 0x20
  | .rts => some 0x60
  | .bcc _ => some 0x90
  | .bcs _ => some 0xB0
  | .beq _ => some 0xF0
  | .bne _ => some 0xD0
  | .bmi _ => some 0x30
  | .bpl _ => some 0x10
  | .bvc _ => some 0x50
  | .bvs _ => some 0x70
  | .clc => some 0x18
  | .sec => some 0x38
  | .cli => some 0x58
  | .sei => some 0x78
  | .clv => some 0xB8
  | .cld => some 0xD8
  | .sed => some 0xF8
  | .nop => some 0xEA
  | .brk => some 0x00
  | .rti => some 0x40
  | .illegal op => if isIllegal op then some op else none

/-- A 16-bit operand in memory order: low byte first (R92, 20_memory.md R56). -/
def addrBytes (w : Addr) : List Byte := [loByte w, hiByte w]

/-- The operand bytes of a memory operand, in memory order (Table R90). -/
def Mem.bytes : Mem → List Byte
  | .zp z | .zpx z | .zpy z | .indx z | .indy z => [z]
  | .abs w | .absx w | .absy w => addrBytes w

/-- The operand bytes of an operand that is read. -/
def Src.bytes : Src → List Byte
  | .imm v => [v]
  | .mem m => m.bytes

/-- The operand bytes of a shift's operand. -/
def Shf.bytes : Shf → List Byte
  | .acc => []
  | .mem m => m.bytes

/-- The operand bytes of a jump. -/
def Target.bytes : Target → List Byte
  | .abs w | .ind w => addrBytes w

/-- The operand bytes of an instruction, in memory order (Table R90). -/
def Instr.bytes : Instr → List Byte
  | .lda o | .ldx o | .ldy o | .adc o | .sbc o | .cmp o | .cpx o | .cpy o | .and o | .ora o | .eor o => o.bytes
  | .sta m | .stx m | .sty m | .inc m | .dec m | .bit m => m.bytes
  | .asl o | .lsr o | .rol o | .ror o => o.bytes
  | .bcc d | .bcs d | .beq d | .bne d | .bmi d | .bpl d | .bvc d | .bvs d => [d]
  | .jmp t => t.bytes
  | .jsr w => addrBytes w
  | .tax | .tay | .txa | .tya | .tsx | .txs | .pha | .php | .pla | .plp | .inx | .iny | .dex | .dey
  | .rts | .clc | .sec | .cli | .sei | .clv | .cld | .sed | .nop | .brk | .rti | .illegal _ => []

/-- The bytes of an instruction in memory order; none for one that has no encoding. -/
def encode (i : Instr) : List Byte :=
  match i.opcode with
  | some op => op :: i.bytes
  | none => []

end Sys2Proof
end

