-- ==== Sys2Proof/Machine/State.lean ====
section
/-! DEFINITION. The state of the machine as plain data (spec 10_state.md, 20_memory.md R52, R57, R70-R75, R82;
60_exceptions.md R262, R264), the reasons a step can stop, and the state after reset. -/

namespace Sys2Proof.Machine

/-- The six flags held as state (R27). B and bit 5 of the pushed byte are not state (R34). -/
structure Flags where
  /-- carry, R28 -/
  c : Bool
  /-- zero, R29 -/
  z : Bool
  /-- interrupt-disable, R30 -/
  i : Bool
  /-- decimal, R31: stored, read by no arithmetic -/
  d : Bool
  /-- overflow, R32 -/
  v : Bool
  /-- negative, R33 -/
  n : Bool
  deriving DecidableEq, Repr

/-- Bytes by address, in one canonical form (`Memory.wf` in Machine/Ops.lean): addresses strictly rising, no entry
equal to what an unlisted address reads as. -/
abbrev Memory := List Host.Cell

/-- The PPU's pipeline phases, in the order it cycles through them (60_exceptions.md R262). -/
inductive Phase where
  /-- register latching, no visible output -/
  | preRender
  /-- sprite evaluation and pixel output -/
  | render
  /-- idle -/
  | postRender
  /-- a status flag is set and NMI raised, if enabled, once on entry -/
  | verticalBlank
  deriving DecidableEq, Repr

/-- The PPU's state that R262 lists, but for what Table R4 leaves out (the sprite working set, the screen buffer and the
rest of the render pipeline). -/
structure Ppu where
  /-- the pipeline-phase tag -/
  phase : Phase
  /-- the scanline counter, below 262, from the first pre-render scanline on -/
  scanline : Nat
  /-- the intra-scanline cycle counter, below 341 -/
  dot : Nat
  /-- the MODEL's own count of frames, which the free values of a frame are applied to (log entry 30) -/
  frame : Nat
  /-- the control register: the byte last written to 0x2000; bit 7 enables NMI (R242, Table R53) -/
  control : Byte
  /-- the mask register: the byte last written to 0x2001 (Table R53) -/
  mask : Byte
  /-- the status flag the vertical-blank phase sets -/
  verticalBlank : Bool
  /-- the status flag that records a sprite 0 collision -/
  sprite0Hit : Bool
  /-- sprite memory: 64 entries of 4 bytes (R262, R265) -/
  oam : Vector Byte 256
  deriving DecidableEq, Repr

/-- The PPU at power-on. DESIGN CHOICE (log entry 32): the spec gives no reset value of any of it but that NMI is not
enabled (70_reset_and_hazards.md R304). -/
def Ppu.initial : Ppu :=
  { phase := .preRender
    scanline := 0
    dot := 0
    frame := 0
    control := 0x00
    mask := 0x00
    verticalBlank := false
    sprite0Hit := false
    oam := Vector.replicate 256 0x00 }

/-- What lies on the PictureBus beside the graphics image: its own RAM array (20_memory.md R82) and the cartridge's mutable
graphics RAM, used where the image has no graphics data (R71, R75). -/
structure Picture where
  /-- the physical nametable banks: two, and two more that only four-screen mirroring uses -/
  nametables : Vector Memory 4
  /-- palette RAM -/
  palette : Memory
  /-- graphics RAM, by offset -/
  graphicsRam : Memory
  deriving DecidableEq, Repr

/-- The PictureBus at power-on. DESIGN CHOICE (log entry 35): nothing listed, so every byte reads 0x00. -/
def Picture.initial : Picture :=
  { nametables := Vector.replicate 4 []
    palette := []
    graphicsRam := [] }

/-- One controller port (60_exceptions.md R264). -/
structure Pad where
  /-- the button bitmap the host wrote last -/
  buttons : Byte
  /-- the bitmap that serial reads shift out: the one a strobe write of 0 latched last -/
  latched : Byte
  deriving DecidableEq, Repr

/-- The two controller ports. -/
structure Pads where
  /-- port 1, read at 0x4016 -/
  one : Pad
  /-- port 2, read at 0x4017 -/
  two : Pad
  deriving DecidableEq, Repr

/-- The controllers at power-on. DESIGN CHOICE (log entry 37): both bitmaps of both ports are 0x00. -/
def Pads.initial : Pads :=
  { one := { buttons := 0x00, latched := 0x00 }
    two := { buttons := 0x00, latched := 0x00 } }

/-- The registers of the shift-register banked mapper (20_memory.md R72). -/
structure ShiftRegs where
  /-- the bytes of the qualifying writes since the last dispatch or reset write, oldest first -/
  shift : List Byte
  /-- the four internal registers -/
  regs : Vector (BitVec 5) 4
  /-- the program mode is "fixed-last-bank" -/
  fixedLast : Bool
  deriving DecidableEq, Repr

/-- The four mapper variants, each with its own registers (20_memory.md R70-R74). -/
inductive Mapper where
  /-- fixed-bank, R71 -/
  | fixed
  /-- shift-register banked, R72 -/
  | shiftReg (r : ShiftRegs)
  /-- switchable program bank, fixed graphics, R73 -/
  | switchPrg (select : Byte)
  /-- switchable graphics bank, fixed program, R74 -/
  | switchChr (chrBank : BitVec 2)
  deriving DecidableEq, Repr

/-- An inserted cartridge: its image and its mapper's state (20_memory.md R70, R75). -/
structure Cartridge where
  /-- the mapper and its registers -/
  mapper : Mapper
  /-- number of 16 KiB program banks: header byte 4 -/
  prgBanks : Byte
  /-- number of 8 KiB graphics banks: header byte 5 (0: graphics RAM) -/
  chrBanks : Byte
  /-- extended RAM is present (R57; D16) -/
  extRam : Bool
  /-- the mirroring mode the mapper reports (R70, R72, R75) -/
  mirroring : Mirroring
  /-- the program image, by offset; immutable after load (R75) -/
  prg : Memory
  /-- the graphics image, by offset; immutable after load (R75) -/
  chr : Memory
  deriving DecidableEq, Repr

/-- The machine's state: the core's registers and flags (10_state.md R20), its interrupt inputs (R39), its timing state
(R40), the bytes of RAM (20_memory.md R52, R57), the cartridge (R70), the PPU (60_exceptions.md R262), the PictureBus
(20_memory.md R82), the controllers (60_exceptions.md R264), and the model's record `io` of what the devices have seen (log
entry 7). -/
structure State where
  /-- accumulator, R22 -/
  a : Byte
  /-- first index register, R23 -/
  x : Byte
  /-- second index register, R24 -/
  y : Byte
  /-- stack pointer, R25: the next free slot is at `0x0100 | sp` -/
  sp : Byte
  /-- program counter, R26 -/
  pc : Addr
  /-- the flags, R27 -/
  flags : Flags
  /-- an NMI has been raised and not yet delivered, R39 -/
  nmiPending : Bool
  /-- level of the IRQ input, R39: set by the platform between steps -/
  irqLine : Bool
  /-- the host has asked for a reset, R39 -/
  resetReq : Bool
  /-- global cycle count, R40 -/
  cycles : Nat
  /-- cycles still to wait before the next step, R40 -/
  skip : Nat
  /-- internal RAM at 0x0000-0x07FF and extended RAM at 0x6000-0x7FFF -/
  mem : Memory
  /-- the inserted cartridge, 70_reset_and_hazards.md R330 -/
  cart : Option Cartridge
  /-- the PPU at the core's boundary, 60_exceptions.md R262 -/
  ppu : Ppu
  /-- the PictureBus's storage, 20_memory.md R82 -/
  picture : Picture
  /-- the controllers' bitmaps, 60_exceptions.md R264 -/
  pads : Pads
  /-- what the devices have seen, newest first (R60, D19) -/
  io : List IoEvent
  deriving DecidableEq, Repr

/-- A step never faults: "No instruction can fault" (60_exceptions.md R241), "every `MemRead` returns a byte and every
`MemWrite` returns" (R267). Nobody raises one. -/
inductive Fault where
  deriving DecidableEq, Repr

/-- Why a step has no meaning. -/
inductive Refusal where
  /-- an instruction of the table that has no meaning yet: raised by `exec` only; safe (the model stops). No arm of
  `exec` is refused. -/
  | notModelled (mnemonic : String)
  /-- stepping with no cartridge "is given no meaning" (D22; 93_implementation_defined.md U11): raised by `step` and
  `cpuCycle`, never by an instruction; safe (the model stops). -/
  | noCartridge
  deriving DecidableEq, Repr

/-- The cartridge that is in the machine at reset: parameter `Mapper` of 00_scope.md R5, open in the spec. DESIGN
CHOICE (log entry 4): the fixed-bank variant, two banks, no extended RAM, an image with nothing listed. -/
def Cartridge.blank : Cartridge :=
  { mapper := .fixed
    prgBanks := 2
    chrBanks := 0
    extRam := false
    mirroring := .horizontal
    prg := []
    chr := [] }

/-- The machine right after reset (70_reset_and_hazards.md R300, 10_state.md R45): pc is `Read16(0xFFFC)`, which is
0x0000 for the blank image (`reset_pc` in Laws/Reset.lean); memory with nothing listed (parameter `ram_init`, log
entry 3). -/
def State.reset : State :=
  { a := 0x00
    x := 0x00
    y := 0x00
    sp := 0xFD
    pc := 0x0000
    flags := { c := false, z := false, i := true, d := false, v := false, n := false }
    nmiPending := false
    irqLine := false
    resetReq := false
    cycles := 0
    skip := 0
    mem := []
    cart := some Cartridge.blank
    ppu := Ppu.initial
    picture := Picture.initial
    pads := Pads.initial
    io := [] }

end Sys2Proof.Machine
end

