-- ==== Sys2Proof/Machine/Flags.lean ====
section
/-! DEFINITION. The flag computations (spec 10_state.md R28-R37; 42_arithmetic.md R160-R164; 43_logic_shift.md R183). -/

namespace Sys2Proof.Machine

/-- The bit as an 8-bit number. -/
def bitByte (b : Bool) : Byte := if b then 1 else 0

/-- `PackP(b)` (R35): `(N << 7) | (V << 6) | (1 << 5) | (b << 4) | (D << 3) | (I << 2) | (Z << 1) | C`. -/
def Flags.pack (f : Flags) (b : Bool) : Byte :=
  (bitByte f.n <<< 7) ||| (bitByte f.v <<< 6) ||| (1#8 <<< 5) ||| (bitByte b <<< 4) |||
    (bitByte f.d <<< 3) ||| (bitByte f.i <<< 2) ||| (bitByte f.z <<< 1) ||| bitByte f.c

/-- `UnpackP(v)` (R36): bits 4 and 5 are ignored. -/
def Flags.unpack (v : Byte) : Flags :=
  { c := v.getLsbD 0, z := v.getLsbD 1, i := v.getLsbD 2, d := v.getLsbD 3, v := v.getLsbD 6, n := v.getLsbD 7 }

/-- `SetZN(v)` (R37). -/
def Flags.setZN (f : Flags) (v : Byte) : Flags := { f with z := v == 0, n := v.getLsbD 7 }

/-- What the adder of ADC and SBC gives (R160, R161). -/
structure Sum where
  /-- the low byte of the sum -/
  value : Byte
  /-- the unbounded sum exceeds 0xFF -/
  carry : Bool
  /-- `((a ^ result) & (b ^ result) & 0x80) != 0` (R32) -/
  overflow : Bool
  deriving DecidableEq, Repr

/-- `result <- A + m + C` and what follows from it (R160). -/
def addWithCarry (a b : Byte) (c : Bool) : Sum :=
  let result := a.toNat + b.toNat + c.toNat
  let r := BitVec.ofNat 8 result
  { value := r, carry := decide (result > 0xFF), overflow := ((a ^^^ r) &&& (b ^^^ r) &&& 0x80) != 0 }

/-- The flags after ADC or SBC: C, V, Z and N from the adder, I and D unchanged (R160, R161). -/
def Flags.ofSum (f : Flags) (s : Sum) : Flags := { f with c := s.carry, v := s.overflow }.setZN s.value

/-- The flags after a compare of register `r` with `m` (R162): C is `r >= m` unsigned, Z and N from `r - m`. -/
def Flags.ofCompare (f : Flags) (r m : Byte) : Flags := { f with c := decide (m.toNat ≤ r.toNat) }.setZN (r - m)

/-- The flags after BIT (R183): Z from `A & m`, N and V from bits 7 and 6 of `m`. -/
def Flags.ofBit (f : Flags) (a m : Byte) : Flags :=
  { f with z := (a &&& m) == 0, n := m.getLsbD 7, v := m.getLsbD 6 }

/-- The flags after a shift: C is the bit shifted out, Z and N from the result (R184-R187). -/
def Flags.ofShift (f : Flags) (out : Bool) (r : Byte) : Flags := { f with c := out }.setZN r

end Sys2Proof.Machine
end

