-- ==== Sys2Proof/Machine/Ppu.lean ====
section
/-! DEFINITION. The PPU as the core sees it (spec 60_exceptions.md R242, R262, R265): the four phases over 262 scanlines,
what its registers and sprite memory take from the bus, and the NMI it raises. -/

namespace Sys2Proof.Machine

/-- How many scanlines are pre-render: at least one (R262; log entry 30). -/
def preRenderLines : Nat := Config.preRenderExtra.val + 1

/-- How many scanlines are post-render: at least one, and at least one scanline is left for vertical blank. -/
def postRenderLines : Nat := Config.postRenderExtra % (20 - Config.preRenderExtra.val) + 1

/-- The phase of a scanline: pre-render, 240 scanlines of render, post-render, vertical blank (R262). -/
def phaseOf (scanline : Nat) : Phase :=
  if scanline < preRenderLines then .preRender
  else if scanline < preRenderLines + 240 then .render
  else if scanline < preRenderLines + 240 + postRenderLines then .postRender
  else .verticalBlank

/-- How many dots the scanline in progress has: 1 to 341 (R262; log entry 30). -/
def Ppu.dots (p : Ppu) : Nat := (Config.dotsInScanlinePred p.frame p.scanline p.mask).val + 1

/-- The dot in progress is the last of its scanline. -/
def Ppu.lineDone (p : Ppu) : Bool := decide (p.dots ≤ p.dot + 1)

/-- The scanline after this one: 262 scanlines, and again (R262). -/
def Ppu.nextLine (p : Ppu) : Nat := (p.scanline + 1) % 262

/-- The counters and the phase after one PPU cycle: the next dot, or the first dot of the next scanline. -/
def Ppu.move (p : Ppu) : Ppu :=
  { p with
    dot := if p.lineDone then 0 else p.dot + 1
    scanline := if p.lineDone then p.nextLine else p.scanline
    phase := if p.lineDone then phaseOf p.nextLine else p.phase
    frame := if p.lineDone && p.nextLine == 0 then p.frame + 1 else p.frame }

/-- The PPU goes from another phase into this one. -/
def entersPhase (ph : Phase) (p q : Ppu) : Bool := p.phase != ph && q.phase == ph

/-- The two status flags after the counters moved from `p` to `q`: entering pre-render leaves free values (log entry
31), entering vertical blank sets its flag, a collision found in render sets the other (R262). -/
def Ppu.latch (hit : Bool) (p q : Ppu) : Ppu :=
  let status := if entersPhase .preRender p q then Config.statusAtPreRender q.frame (q.verticalBlank, q.sprite0Hit)
    else (q.verticalBlank, q.sprite0Hit)
  { q with
    verticalBlank := status.1 || entersPhase .verticalBlank p q
    sprite0Hit := status.2 || (hit && q.phase == .render) }

/-- One PPU cycle; `hit` is whether the render pipeline, which Table R4 leaves out, finds a sprite 0 collision in it. -/
def Ppu.cycle (hit : Bool) (p : Ppu) : Ppu := Ppu.latch hit p p.move

/-- NMI is enabled: bit 7 of the control register (R242). -/
def Ppu.nmiEnabled (p : Ppu) : Bool := p.control.msb

/-- A PPU cycle seen by the core: NMI is raised exactly once on entry to vertical blank, if enabled (R242, R262); a raise
while one is pending leaves it pending. -/
def State.ppuCycle (hit : Bool) (s : State) : State :=
  { s with
    ppu := s.ppu.cycle hit
    nmiPending := s.nmiPending || (s.ppu.nmiEnabled && entersPhase .verticalBlank s.ppu (s.ppu.cycle hit)) }

/-- Sprite memory after bytes land in it in ascending order from `start` on, around its end (R265; log entry 31). -/
def landInOam (start : Byte) (bytes : List Byte) (oam : Vector Byte 256) : Vector Byte 256 :=
  Vector.ofFn fun j => bytes.getD (BitVec.ofNat 8 j.val - start).toNat oam[j]

/-- What an event at the bus does to the PPU, after the events `seen`: a read of 0x2002 clears the vertical-blank flag
(43_logic_shift.md R183), writes of 0x2000 and 0x2001 load the control and mask registers, a write of 0x2004 and a DMA
load sprite memory (Table R53, R265), a reset starts it anew with sprite memory kept (R303; log entry 32). -/
def Ppu.sees (seen : List IoEvent) (e : IoEvent) (p : Ppu) : Ppu :=
  match e with
  | .read reg => if reg = 0x2002 then { p with verticalBlank := false } else p
  | .write reg v =>
    if reg = 0x2000 then { p with control := v }
    else if reg = 0x2001 then { p with mask := v }
    else if reg = 0x2004 then { p with oam := landInOam (Config.oamAddress seen) [v] p.oam }
    else p
  | .dma _ bytes => { p with oam := landInOam (Config.oamAddress seen) bytes p.oam }
  | .deviceReset => { Ppu.initial with frame := p.frame, oam := p.oam }
  | .buttons _ _ => p

end Sys2Proof.Machine
end

