-- ==== Sys2Proof/Machine/Ops.lean ====
section
/-! DEFINITION. The named operations over registers, memory, the mapper, the PictureBus, the controllers, the MainBus, the
stack, interrupt entry and return, and reset (spec 20_memory.md; 60_exceptions.md R247; 70_reset_and_hazards.md R300). -/

namespace Sys2Proof.Machine

/-! ## Words -/

/-- `zext_16` of 00_scope.md R8. -/
def zext16 (v : Byte) : Addr := v.setWidth 16

/-- `sext_16` of 00_scope.md R8. -/
def sext16 (v : Byte) : Addr := v.signExtend 16

/-- The page of an address: bits 15:8 (30_encoding.md R106). -/
def page (a : Addr) : Byte := hiByte a

/-! ## Register updates -/

/-- Write A (R22). -/
def State.setA (v : Byte) (s : State) : State := { s with a := v }

/-- Write X (R23). -/
def State.setX (v : Byte) (s : State) : State := { s with x := v }

/-- Write Y (R24). -/
def State.setY (v : Byte) (s : State) : State := { s with y := v }

/-- Write SP (R25). -/
def State.setSp (v : Byte) (s : State) : State := { s with sp := v }

/-- Write PC (R26). -/
def State.setPc (v : Addr) (s : State) : State := { s with pc := v }

/-- Write the six flags (R27). -/
def State.setFlags (f : Flags) (s : State) : State := { s with flags := f }

/-- `SetZN(v)` (10_state.md R37) on the state. -/
def State.setZN (v : Byte) (s : State) : State := s.setFlags (s.flags.setZN v)

/-- Charge `n` cycles to the step in progress: they are waited out before the next one (70_reset_and_hazards.md R320). -/
def State.charge (n : Nat) (s : State) : State := { s with skip := s.skip + n }

/-! ## Storage: bytes by address in canonical form -/

/-- What an address with no entry reads as. DESIGN CHOICE (log entry 3): the spec leaves `ram_init` open (D9). -/
def Memory.unlisted : Byte := 0x00

/-- The byte at an address. -/
def Memory.read : Memory → Nat → Byte
  | [], _ => Memory.unlisted
  | (k, v) :: m, a => if k = a then v else Memory.read m a

/-- An entry in front, unless it says what an unlisted address reads as. -/
def Memory.cons (a : Nat) (v : Byte) (m : Memory) : Memory := if v = Memory.unlisted then m else (a, v) :: m

/-- Store a byte, keeping the canonical form. -/
def Memory.write : Memory → Nat → Byte → Memory
  | [], a, v => Memory.cons a v []
  | (k, w) :: m, a, v =>
    if a < k then Memory.cons a v ((k, w) :: m)
    else if a = k then Memory.cons a v m
    else (k, w) :: Memory.write m a v

/-- Every address of the list lies above `lo`, they rise strictly, and no entry is redundant. -/
def Memory.wfAbove : Option Nat → Memory → Bool
  | _, [] => true
  | lo, (k, v) :: m => (lo.all (· < k)) && (v != Memory.unlisted) && Memory.wfAbove (some k) m

/-- The canonical form: strictly rising addresses, no entry equal to what an unlisted address reads as. -/
def Memory.wf (m : Memory) : Bool := Memory.wfAbove none m

/-! ## The mapper and the program window (20_memory.md R58, R70-R74) -/

/-- The size of the program image in bytes: `16384 × byte 4` (R75). -/
def Cartridge.prgSize (c : Cartridge) : Nat := 0x4000 * c.prgBanks.toNat

/-- Where in the program image an address of the window lies, before reduction modulo the image's size (R70). -/
def Cartridge.prgOffset (c : Cartridge) (a : Addr) : Nat :=
  match c.mapper with
  | .fixed | .switchChr _ => a.toNat - 0x8000
  | .switchPrg select =>
    if a.toNat < 0xC000 then (select.toNat % c.prgBanks.toNat) * 0x4000 + a.toNat % 0x4000
    else (c.prgBanks.toNat - 1) * 0x4000 + a.toNat % 0x4000
  | .shiftReg r => Config.shiftPrgOffset r.regs r.fixedLast a

/-- The cell of the program image behind an address: the offset taken modulo the image's size, so that no access can
fall outside it (R70). -/
def Cartridge.prgCell (c : Cartridge) (a : Addr) : Nat := c.prgOffset a % c.prgSize

/-- `Mapper.readProgram` (R58). -/
def Cartridge.readProgram (c : Cartridge) (a : Addr) : Byte := Memory.read c.prg (c.prgCell a)

/-- The internal register a program address selects (R72): `[0x8000,0x9FFF]` is the one whose low two bits set the
mirroring mode, numbered 0 here; which of the four the others are is a free value (log entry 14). -/
def shiftRegisterOf (a : Addr) : Fin 4 := if a.toNat < 0xA000 then 0 else Config.shiftRegister a

/-- The mirroring mode of the low two bits of the assembled value (R72; 95_test_vectors.md S2). -/
def mirroringOf (v : BitVec 5) : Mirroring :=
  match v.toNat % 4 with
  | 0 => .oneScreenLow
  | 1 => .oneScreenHigh
  | 2 => .vertical
  | _ => .horizontal

/-- A write to the shift-register mapper (R72): the high bit set resets the shift register and forces fixed-last-bank;
otherwise the byte enters the shift register, and the fifth dispatches the assembled value. At `[0x8000,0x9FFF]` its low
two bits set the mirroring mode; what a dispatch elsewhere does to the mode is a free value (log entry 26). DESIGN CHOICE
(log entry 39): a dispatch replaces the header's four-screen override (R75) like any other mode. -/
def Cartridge.shiftWrite (c : Cartridge) (r : ShiftRegs) (a : Addr) (v : Byte) : Cartridge :=
  if v.msb then { c with mapper := .shiftReg { r with shift := [], fixedLast := true } }
  else
    let bytes := r.shift ++ [v]
    if bytes.length < 5 then { c with mapper := .shiftReg { r with shift := bytes } }
    else
      let value := Config.shiftAssemble bytes
      let k := shiftRegisterOf a
      { c with
        mapper := .shiftReg
          { shift := []
            regs := r.regs.set k.val value k.isLt
            fixedLast := Config.shiftFixedLast k value r.fixedLast }
        mirroring := if a.toNat < 0xA000 then mirroringOf value else Config.shiftMirroring a value c.mirroring }

/-- `Mapper.writeProgram` (R58): never the image bytes, only the mapper's registers. -/
def Cartridge.writeProgram (c : Cartridge) (a : Addr) (v : Byte) : Cartridge :=
  match c.mapper with
  | .fixed => c
  | .shiftReg r => c.shiftWrite r a v
  | .switchPrg _ => { c with mapper := .switchPrg v }
  | .switchChr _ => { c with mapper := .switchChr (v.setWidth 2) }

/-! ## Graphics memory (20_memory.md R70-R75) -/

/-- The size of the graphics memory in bytes: `8192 × byte 5`, or one 8 KiB bank of RAM where byte 5 is 0 (R71, R75).
DEDUCED for the mappers other than the fixed-bank one (log entry 38). -/
def Cartridge.chrSize (c : Cartridge) : Nat := if c.chrBanks = 0 then 0x2000 else 0x2000 * c.chrBanks.toNat

/-- Where in the graphics memory a graphics address lies, before reduction modulo its size (R70): a single fixed 8 KiB
bank (R71, R73), one of four selected (R74), or a free value (R72; log entry 14). DESIGN CHOICE (log entry 38): a fixed
space shows the first bank of several. -/
def Cartridge.graphicsOffset (c : Cartridge) (a : Addr) : Nat :=
  match c.mapper with
  | .fixed | .switchPrg _ => a.toNat % 0x2000
  | .switchChr bank => bank.toNat * 0x2000 + a.toNat % 0x2000
  | .shiftReg r => Config.shiftChrOffset r.regs a

/-- A byte of storage on the PictureBus. Two addresses of one cell share storage. -/
inductive PictureCell where
  /-- a byte of the graphics image, which no write changes (R75) -/
  | graphicsRom (offset : Nat)
  /-- a byte of the graphics RAM -/
  | graphicsRam (offset : Nat)
  /-- a byte of a physical nametable bank -/
  | nametable (bank : Fin 4) (offset : Addr)
  /-- a byte of palette RAM -/
  | palette (offset : Addr)
  /-- graphics memory with no cartridge inserted -/
  | absent
  deriving DecidableEq, Repr

/-- The cell behind a graphics address: in the image, or in graphics RAM where the cartridge has no graphics data (R75),
taken modulo the size, so that no access can fall outside it (R70). -/
def Cartridge.graphicsCell (c : Cartridge) (a : Addr) : PictureCell :=
  if c.chrBanks = 0 then .graphicsRam (c.graphicsOffset a % c.chrSize) else .graphicsRom (c.graphicsOffset a % c.chrSize)

/-! ## The PictureBus (20_memory.md R82) -/

/-- The physical bank of a logical nametable: horizontal mirroring makes left and right share, vertical top and bottom,
the one-screen modes all four (R82). DESIGN CHOICE (log entry 35): which bank carries which number, and that under four-screen
none share. -/
def nametableBank (m : Mirroring) (bottom right : Bool) : Fin 4 :=
  match m with
  | .horizontal => if bottom then 1 else 0
  | .vertical => if right then 1 else 0
  | .fourScreen => if bottom then (if right then 3 else 2) else (if right then 1 else 0)
  | .oneScreenLow => 0
  | .oneScreenHigh => 1

/-- The mirroring mode the mapper reports; with no cartridge there is none (log entry 35). -/
def State.mirroring (s : State) : Mirroring :=
  match s.cart with
  | some c => c.mirroring
  | none => .horizontal

/-- The cell behind what a PictureBus address is decoded to. -/
def State.targetCell (t : PictureTarget) (s : State) : PictureCell :=
  match t with
  | .graphics a =>
    match s.cart with
    | some c => c.graphicsCell a
    | none => .absent
  | .nametable bottom right offset => .nametable (nametableBank s.mirroring bottom right) offset
  | .palette offset => .palette offset

/-- The byte of a cell of the PictureBus. -/
def State.readCell (k : PictureCell) (s : State) : Byte :=
  match k with
  | .graphicsRom i =>
    match s.cart with
    | some c => Memory.read c.chr i
    | none => Memory.unlisted
  | .graphicsRam i => Memory.read s.picture.graphicsRam i
  | .nametable b i => Memory.read s.picture.nametables[b] i.toNat
  | .palette i => Memory.read s.picture.palette i.toNat
  | .absent => Memory.unlisted

/-- The cell takes writes: all but the graphics image's (R75). -/
def PictureCell.isRam : PictureCell → Bool
  | .graphicsRam _ | .nametable _ _ | .palette _ => true
  | .graphicsRom _ | .absent => false

/-- The PictureBus's storage after a byte is written to a cell; the graphics image takes none (R75). -/
def Picture.writeCell (k : PictureCell) (v : Byte) (p : Picture) : Picture :=
  match k with
  | .graphicsRom _ | .absent => p
  | .graphicsRam i => { p with graphicsRam := Memory.write p.graphicsRam i v }
  | .nametable b i => { p with nametables := p.nametables.set b.val (Memory.write p.nametables[b] i.toNat v) b.isLt }
  | .palette i => { p with palette := Memory.write p.palette i.toNat v }

/-- `Mapper.readGraphics` (R70). -/
def State.readGraphics (a : Addr) (s : State) : Byte := s.readCell (s.targetCell (.graphics a))

/-- `Mapper.writeGraphics` (R70): the graphics RAM, never the image bytes. -/
def State.writeGraphics (a : Addr) (v : Byte) (s : State) : State :=
  { s with picture := s.picture.writeCell (s.targetCell (.graphics a)) v }

/-- The cell behind a PictureBus address (R82; log entry 35). -/
def State.pictureCell (a : Addr) (s : State) : PictureCell := s.targetCell (Config.pictureDecode a)

/-- The byte at a PictureBus address. -/
def State.readPicture (a : Addr) (s : State) : Byte := s.readCell (s.pictureCell a)

/-- The PictureBus's storage after a byte is written at an address. -/
def State.writePicture (a : Addr) (v : Byte) (s : State) : Picture := s.picture.writeCell (s.pictureCell a) v

/-! ## The controllers (60_exceptions.md R264) -/

/-- The host writes a port's button bitmap. -/
def Pads.press (port : Port) (bitmap : Byte) (p : Pads) : Pads :=
  match port with
  | .one => { p with one := { p.one with buttons := bitmap } }
  | .two => { p with two := { p.two with buttons := bitmap } }

/-- A strobe write of 0 latches each port's bitmap for subsequent serial reads. -/
def Pads.latch (p : Pads) : Pads :=
  { one := { p.one with latched := p.one.buttons }
    two := { p.two with latched := p.two.buttons } }

/-- A byte is written to the strobe register: 0x00 is a strobe write of 0, and which other bytes are is a free value (log
entry 37). -/
def Pads.strobe (v : Byte) (p : Pads) : Pads := if v = 0x00 ∨ Config.strobeIsZero v = true then p.latch else p

/-! ## The MainBus (20_memory.md R51) -/

/-- What handles an address: Table R51. Two addresses with the same region are the same storage cell or register. -/
inductive Region where
  /-- internal RAM and its mirrors, R52, by cell -/
  | ram (cell : Nat)
  /-- a device register that answers reads and takes writes (R53, R54), by the register's own address -/
  | device (reg : Addr)
  /-- an APU channel register: takes writes, reads 0 (Table R51) -/
  | writeOnly (reg : Addr)
  /-- the sprite DMA trigger, 60_exceptions.md R265 -/
  | dmaTrigger
  /-- the rest of the I/O window and the expansion window, R55 -/
  | unregistered
  /-- extended RAM, R57, by cell -/
  | extRam (cell : Nat)
  /-- the program window, R58 -/
  | program (a : Addr)
  deriving DecidableEq, Repr

/-- The address partition (Table R51; R52, R54). -/
def region (a : Addr) : Region :=
  let n := a.toNat
  if n < 0x2000 then .ram (n % 0x800)
  else if n < 0x4000 then .device (BitVec.ofNat 16 (0x2000 + n % 8))
  else if n < 0x4014 then .writeOnly a
  else if n = 0x4014 then .dmaTrigger
  else if n < 0x4018 then .device a
  else if n < 0x6000 then .unregistered
  else if n < 0x8000 then .extRam n
  else .program a

/-- A read of the address has side effects on a device (R60). -/
def isDevice (a : Addr) : Bool :=
  match region a with
  | .device _ => true
  | _ => false

/-- Extended RAM is present (R57). -/
def State.hasExtRam (s : State) : Bool := s.cart.any (·.extRam)

/-- The byte of the program window; with no cartridge there is none (D22: such a machine is not stepped). -/
def State.readProgram (s : State) (a : Addr) : Byte :=
  match s.cart with
  | some c => c.readProgram a
  | none => Memory.unlisted

/-- What the devices see: the PPU takes it (60_exceptions.md R262) and it is added to the record. -/
def State.emit (e : IoEvent) (s : State) : State := { s with io := e :: s.io, ppu := s.ppu.sees s.io e }

/-- What the device behind a register holds that a read of it may show (Table R53; 60_exceptions.md R262, R264; 20_memory.md
R82): an argument of the free value that answers the read. -/
def State.deviceData (r : Addr) (s : State) : DeviceData :=
  if r = 0x2002 then .status s.ppu.verticalBlank s.ppu.sprite0Hit
  else if r = 0x2004 then .byte (s.ppu.oam[(Config.oamAddress s.io).toNat]'(Config.oamAddress s.io).isLt)
  else if r = 0x2007 then .byte (s.readPicture (Config.pictureAddress s.io))
  else if r = 0x4016 then .latched s.pads.one.latched
  else if r = 0x4017 then .latched s.pads.two.latched
  else .nothing

/-- A write of a device register: an event, of which the PPU takes its part; besides, a write of 0x2007 moves the byte to
the PictureBus (R82; log entry 36) and a write of 0x4016 is the controllers' strobe (60_exceptions.md R264). -/
def State.writeDevice (r : Addr) (v : Byte) (s : State) : State :=
  { s.emit (.write r v) with
    picture := if r = 0x2007 then s.writePicture (Config.pictureAddress s.io) v else s.picture
    pads := if r = 0x4016 then s.pads.strobe v else s.pads }

/-- `MemRead(addr, 1)` (R51, R8): the byte and the state after the access. -/
def memRead (a : Addr) (s : State) : Byte × State :=
  match region a with
  | .ram k => (Memory.read s.mem k, s)
  | .device r => (Config.ioRead s.io s.cycles r (s.deviceData r), s.emit (.read r))
  | .writeOnly _ | .dmaTrigger | .unregistered => (0x00, s)
  | .extRam k => (if s.hasExtRam then Memory.read s.mem k else 0x00, s)
  | .program p => (s.readProgram p, s)

/-- The byte a read of the address answers now. -/
def peek (s : State) (a : Addr) : Byte := (memRead a s).1

/-- `n` reads at increasing addresses, in order: the bytes and the state after. -/
def readBlock : Nat → Addr → State → List Byte × State
  | 0, _, s => ([], s)
  | n + 1, a, s =>
    let first := memRead a s
    let rest := readBlock n (a + 1) first.2
    (first.1 :: rest.1, rest.2)

/-- The DMA stall (70_reset_and_hazards.md R324, D17): 513 cycles, 514 when the count at the boundary before the storing
instruction is odd. -/
def dmaStall (cycles : Nat) : Nat := 513 + cycles % 2

/-- Sprite DMA (60_exceptions.md R265): the 256 bytes of the page are read in ascending order and handed to the picture
unit; the core is stalled. -/
def spriteDma (v : Byte) (s : State) : State :=
  let r := readBlock 256 (word16 v 0) s
  (r.2.emit (.dma v r.1)).charge (dmaStall s.cycles)

/-- `MemWrite(addr, 1, v)` (R51, R8). -/
def memWrite (a : Addr) (v : Byte) (s : State) : State :=
  match region a with
  | .ram k => { s with mem := Memory.write s.mem k v }
  | .device r => s.writeDevice r v
  | .writeOnly r => s.emit (.write r v)
  | .dmaTrigger => spriteDma v (s.emit (.write 0x4014 v))
  | .unregistered => s
  | .extRam k => if s.hasExtRam then { s with mem := Memory.write s.mem k v } else s
  | .program p => { s with cart := s.cart.map (·.writeProgram p v) }

/-- `Read16(a)` (R56) where neither byte is a device's: low byte at the lower address. The vectors lie in the program
window, whose reads have no side effect (R58, R60). -/
def peek16 (s : State) (a : Addr) : Addr := word16 (peek s (a + 1)) (peek s a)

/-! ## The stack (20_memory.md R62-R64) -/

/-- The address of a stack slot: `0x0100 | SP` (R62). -/
def stackAddr (sp : Byte) : Addr := 0x0100 ||| zext16 sp

/-- `Push(v)` (R63). -/
def push (v : Byte) (s : State) : State := (memWrite (stackAddr s.sp) v s).setSp (s.sp - 1)

/-- A 16-bit value is pushed high byte first (R63). -/
def push16 (w : Addr) (s : State) : State := push (loByte w) (push (hiByte w) s)

/-- The byte `Pull()` answers (R64). The stack page is internal RAM, whose reads have no side effect (R52, R62). -/
def pullByte (s : State) : Byte := peek s (stackAddr (s.sp + 1))

/-- The state after `Pull()` (R64). -/
def pulled (s : State) : State := s.setSp (s.sp + 1)

/-- The 16-bit value two pulls answer, low byte first (R64). -/
def pullWord (s : State) : Addr := word16 (pullByte (pulled s)) (pullByte s)

/-! ## Interrupt entry and return (60_exceptions.md R247, R250), reset (70_reset_and_hazards.md R300) -/

/-- The NMI vector (20_memory.md R65). -/
def nmiVector : Addr := 0xFFFA

/-- The reset vector (R65). -/
def resetVector : Addr := 0xFFFC

/-- The vector IRQ and BRK share (R65). -/
def irqVector : Addr := 0xFFFE

/-- `InterruptEntry(vector, b)` (R247): push PC high, PC low, the flags with marker `b`; set I; PC from the vector;
7 cycles. -/
def interruptEntry (vector : Addr) (b : Bool) (s : State) : State :=
  let s3 := push (s.flags.pack b) (push16 s.pc s)
  (((s3.setFlags { s3.flags with i := true }).setPc (peek16 s3 vector)).charge 7)

/-- Return from interrupt (R250; 45_flags_system.md R229): the flags byte, then PC low, then PC high. -/
def interruptReturn (s : State) : State :=
  let s1 := pulled (s.setFlags (Flags.unpack (pullByte s)))
  (pulled (pulled s1)).setPc (pullWord s1)

/-- `Reset()` (R300): nothing is pushed and no byte of memory changes (R302, R303); the platform's devices are reset
with it and withdraw their requests (R303; log entry 10). DESIGN CHOICE (log entry 27): the mapper's registers and extended
RAM stay as they are, which the spec leaves to the `Mapper` parameter (N18, U8). DESIGN CHOICE (log entries 33, 35, 37): the
PPU is reset in the same act, and the PictureBus's storage and the controllers' bitmaps stay. -/
def doReset (s : State) : State :=
  { s with
    a := 0x00
    x := 0x00
    y := 0x00
    sp := 0xFD
    flags := { c := false, z := false, i := true, d := false, v := false, n := false }
    nmiPending := false
    irqLine := false
    resetReq := false
    cycles := 0
    skip := 0
    io := .deviceReset :: s.io
    ppu := s.ppu.sees s.io .deviceReset
    pc := peek16 s resetVector }

/-! ## Fetching an instruction (30_encoding.md R90, R91, R112) -/

/-- `Fetch()` (R91). -/
def fetch (s : State) : Byte × State :=
  let r := memRead s.pc s
  (r.1, r.2.setPc (r.2.pc + 1))

/-- `n` fetches in order: the bytes, first one first, and the state after. -/
def fetchBytes : Nat → State → List Byte × State
  | 0, s => ([], s)
  | n + 1, s =>
    let first := fetch s
    let rest := fetchBytes n first.2
    (first.1 :: rest.1, rest.2)

/-- The opcode byte and the operand bytes its mode takes are fetched, in order (R91, R112): the instruction they make,
and the state with PC past its last byte. -/
def fetchInstr (s : State) : Instr × State :=
  let op := fetch s
  let rest := fetchBytes (operandCount op.1) op.2
  (ofBytes op.1 (rest.1.getD 0 0) (rest.1.getD 1 0), rest.2)

/-! ## The passing of a stall (70_reset_and_hazards.md R320) -/

/-- The cycles still to wait pass, and the machine is at an instruction boundary: `cycles` grows by them (R320). -/
def State.settle (s : State) : State := { s with cycles := s.cycles + s.skip, skip := 0 }

end Sys2Proof.Machine
end

