-- ==== Sys2Proof/Machine/Operands.lean ====
section
/-! DEFINITION. The operand forms: effective addresses (spec 30_encoding.md R93-R106), reading an operand, and what
each form costs (70_reset_and_hazards.md R321, Table R322). They run after every instruction byte has been fetched. -/

namespace Sys2Proof.Machine

/-- The 16-bit pointer in the zero page at `z`: both bytes come from page 0 (R61, R103, R104). -/
def zpPointer (s : State) (z : Byte) : Addr := word16 (peek s (zext16 (z + 1))) (peek s (zext16 z))

/-- The address an indexed mode adds its index to, where it adds one with carry (R100, R101, R104). -/
def indexBase (s : State) : Mem → Addr
  | .zp z | .zpx z | .zpy z => zext16 z
  | .abs base | .absx base | .absy base => base
  | .indx z => zpPointer s (z + s.x)
  | .indy z => zpPointer s z

/-- The effective address (R96-R101, R103, R104). -/
def ea (s : State) : Mem → Addr
  | .zp z => zext16 z
  | .zpx z => zext16 (z + s.x)
  | .zpy z => zext16 (z + s.y)
  | .abs base => base
  | .absx base => base + zext16 s.x
  | .absy base => base + zext16 s.y
  | .indx z => zpPointer s (z + s.x)
  | .indy z => zpPointer s z + zext16 s.y

/-- `crossed` (R106): computed by absx, absy and indy only. -/
def crossed (s : State) (m : Mem) : Bool :=
  match m with
  | .absx _ | .absy _ | .indy _ => page (ea s m) != page (indexBase s m)
  | .zp _ | .zpx _ | .zpy _ | .abs _ | .indx _ => false

/-- Read the operand: an immediate is the byte already fetched (R95), a memory operand is one `MemRead`. -/
def readSrc (s : State) : Src → Byte × State
  | .imm v => (v, s)
  | .mem m => memRead (ea s m) s

/-- The pointed-to target of JMP's indirect mode, with the page-wrap defect (R102): the high byte is read from the
start of the pointer's own page when the pointer sits at the page's last byte. -/
def indirectHiAddr (ptr : Addr) : Addr := (ptr &&& 0xFF00) ||| ((ptr + 1) &&& 0x00FF)

/-- A jump's target and the state after its pointer reads, low byte first (R99, R102). -/
def jumpTarget (s : State) : Target → Addr × State
  | .abs t => (t, s)
  | .ind ptr =>
    let lo := memRead ptr s
    let hi := memRead (indirectHiAddr ptr) lo.2
    (word16 hi.1 lo.1, hi.2)

/-- The target of a branch with displacement `d`, from the address of the next instruction (R105). -/
def branchTarget (next : Addr) (d : Byte) : Addr := next + sext16 d

/-! ## Costs -/

/-- 1 where the flag holds. -/
def extra (b : Bool) : Nat := if b then 1 else 0

/-- The cost of a read-only instruction by its operand (Table R322, first row; R321 (a)). The zpy form stands beside zpx. -/
def readCost (s : State) : Src → Nat
  | .imm _ => 2
  | .mem (.zp _) => 3
  | .mem (.zpx _) | .mem (.zpy _) | .mem (.abs _) => 4
  | .mem (.absx base) => 4 + extra (crossed s (.absx base))
  | .mem (.absy base) => 4 + extra (crossed s (.absy base))
  | .mem (.indx _) => 6
  | .mem (.indy z) => 5 + extra (crossed s (.indy z))

/-- The cost of a store (Table R322, second row): fixed, `crossed` is ignored (R321 (c)). -/
def storeCost : Mem → Nat
  | .zp _ => 3
  | .zpx _ | .zpy _ | .abs _ => 4
  | .absx _ | .absy _ => 5
  | .indx _ | .indy _ => 6

/-- The cost of a read-modify-write instruction on memory (Table R322, third row): fixed (R321 (c)). The table has zp,
zpx, abs and absx only; the other forms have no encoding (log entry 13). -/
def rmwCost : Mem → Nat
  | .zp _ => 5
  | .zpx _ | .zpy _ | .abs _ => 6
  | .absx _ | .absy _ => 7
  | .indx _ | .indy _ => 8

/-- The cost of a branch (44_control_flow.md R203; R321 (b)): 2, 3 taken, 4 taken to a page other than the next
instruction's. -/
def branchCost (taken : Bool) (next target : Addr) : Nat :=
  2 + extra taken + extra (taken && page target != page next)

end Sys2Proof.Machine
end

