-- ==== Sys2Proof/Machine/LoadStore.lean ====
section
/-! DEFINITION. Load, store and register-transfer instructions (spec 40_load_store_transfer.md R130-R141). -/

namespace Sys2Proof.Machine

/-- What a meaning answers: no instruction faults or is refused (60_exceptions.md R241). -/
abbrev Result := Host.Outcome State Fault Refusal

/-- A load: the operand byte is read once, written to the register, and sets Z and N. -/
def load (set : Byte → State → State) (o : Src) (s : State) : State :=
  let r := readSrc s o
  ((set r.1 r.2).setZN r.1).charge (readCost s o)

/-- A store: one write of the byte at the effective address; no flag. -/
def store (v : Byte) (m : Mem) (s : State) : State := (memWrite (ea s m) v s).charge (storeCost m)

/-- A transfer into a register that sets Z and N. -/
def transfer (set : Byte → State → State) (v : Byte) (s : State) : State := ((set v s).setZN v).charge 2

/-- LDA (R130). -/
def execLda (o : Src) (s : State) : Result := .next (load State.setA o s)

/-- LDX (R131). -/
def execLdx (o : Src) (s : State) : Result := .next (load State.setX o s)

/-- LDY (R132). -/
def execLdy (o : Src) (s : State) : Result := .next (load State.setY o s)

/-- STA (R133). -/
def execSta (m : Mem) (s : State) : Result := .next (store s.a m s)

/-- STX (R134). -/
def execStx (m : Mem) (s : State) : Result := .next (store s.x m s)

/-- STY (R135). -/
def execSty (m : Mem) (s : State) : Result := .next (store s.y m s)

/-- TAX (R136). -/
def execTax (s : State) : Result := .next (transfer State.setX s.a s)

/-- TAY (R137). -/
def execTay (s : State) : Result := .next (transfer State.setY s.a s)

/-- TXA (R138). -/
def execTxa (s : State) : Result := .next (transfer State.setA s.x s)

/-- TYA (R139). -/
def execTya (s : State) : Result := .next (transfer State.setA s.y s)

/-- TSX (R140). -/
def execTsx (s : State) : Result := .next (transfer State.setX s.sp s)

/-- TXS (R141): the one transfer that does not touch Z and N. -/
def execTxs (s : State) : Result := .next ((s.setSp s.x).charge 2)

end Sys2Proof.Machine
end

