-- ==== Sys2Proof/Machine/Arithmetic.lean ====
section
/-! DEFINITION. Arithmetic, compare, increment and decrement instructions (spec 42_arithmetic.md R159-R170). The D flag
is read by none of them (10_state.md R31; D2). -/

namespace Sys2Proof.Machine

/-- Add `b` and the carry to A (R160; R161 with the complemented operand). -/
def addToA (b : Byte) (s : State) : State :=
  let r := addWithCarry s.a b s.flags.c
  (s.setA r.value).setFlags (s.flags.ofSum r)

/-- Compare a register's value with the operand (R162-R164): flags only. -/
def compareReg (v : Byte) (o : Src) (s : State) : State :=
  let r := readSrc s o
  (r.2.setFlags (s.flags.ofCompare v r.1)).charge (readCost s o)

/-- Read the memory operand once, write `f` of it back once, set Z and N (R165, R168; 20_memory.md R68). -/
def modifyMem (f : Byte → Byte) (m : Mem) (s : State) : State :=
  let r := memRead (ea s m) s
  ((memWrite (ea s m) (f r.1) r.2).setZN (f r.1)).charge (rmwCost m)

/-- ADC (R160). -/
def execAdc (o : Src) (s : State) : Result :=
  .next ((addToA (readSrc s o).1 (readSrc s o).2).charge (readCost s o))

/-- SBC (R161): ADC of the operand's complement. -/
def execSbc (o : Src) (s : State) : Result :=
  .next ((addToA ((readSrc s o).1 ^^^ 0xFF) (readSrc s o).2).charge (readCost s o))

/-- CMP (R162). -/
def execCmp (o : Src) (s : State) : Result := .next (compareReg s.a o s)

/-- CPX (R163). -/
def execCpx (o : Src) (s : State) : Result := .next (compareReg s.x o s)

/-- CPY (R164). -/
def execCpy (o : Src) (s : State) : Result := .next (compareReg s.y o s)

/-- INC (R165). -/
def execInc (m : Mem) (s : State) : Result := .next (modifyMem (· + 1) m s)

/-- INX (R166). -/
def execInx (s : State) : Result := .next (transfer State.setX (s.x + 1) s)

/-- INY (R167). -/
def execIny (s : State) : Result := .next (transfer State.setY (s.y + 1) s)

/-- DEC (R168). -/
def execDec (m : Mem) (s : State) : Result := .next (modifyMem (· - 1) m s)

/-- DEX (R169). -/
def execDex (s : State) : Result := .next (transfer State.setX (s.x - 1) s)

/-- DEY (R170). -/
def execDey (s : State) : Result := .next (transfer State.setY (s.y - 1) s)

end Sys2Proof.Machine
end

