-- ==== Sys2Proof/Machine/Control.lean ====
section
/-! DEFINITION. Jumps, subroutine call and return, conditional branches (spec 44_control_flow.md R200-R211). PC is the
address of the next instruction when a meaning runs (10_state.md R26). -/

namespace Sys2Proof.Machine

/-- The cost of a jump (Table R200). -/
def jumpCost : Target → Nat
  | .abs _ => 3
  | .ind _ => 5

/-- The common operation of the eight branches (R203). -/
def branch (cond : Bool) (d : Byte) (s : State) : State :=
  (s.setPc (if cond then branchTarget s.pc d else s.pc)).charge (branchCost cond s.pc (branchTarget s.pc d))

/-- JMP (R200). -/
def execJmp (t : Target) (s : State) : Result :=
  .next (((jumpTarget s t).2.setPc (jumpTarget s t).1).charge (jumpCost t))

/-- JSR (R201): the pushed address is that of the JSR's last byte. -/
def execJsr (target : Addr) (s : State) : Result := .next (((push16 (s.pc - 1) s).setPc target).charge 6)

/-- RTS (R202): one more than the pulled address. -/
def execRts (s : State) : Result := .next (((pulled (pulled s)).setPc (pullWord s + 1)).charge 6)

/-- BCC (R204). -/
def execBcc (d : Byte) (s : State) : Result := .next (branch (!s.flags.c) d s)

/-- BCS (R205). -/
def execBcs (d : Byte) (s : State) : Result := .next (branch s.flags.c d s)

/-- BEQ (R206). -/
def execBeq (d : Byte) (s : State) : Result := .next (branch s.flags.z d s)

/-- BNE (R207). -/
def execBne (d : Byte) (s : State) : Result := .next (branch (!s.flags.z) d s)

/-- BMI (R208). -/
def execBmi (d : Byte) (s : State) : Result := .next (branch s.flags.n d s)

/-- BPL (R209). -/
def execBpl (d : Byte) (s : State) : Result := .next (branch (!s.flags.n) d s)

/-- BVC (R210). -/
def execBvc (d : Byte) (s : State) : Result := .next (branch (!s.flags.v) d s)

/-- BVS (R211). -/
def execBvs (d : Byte) (s : State) : Result := .next (branch s.flags.v d s)

end Sys2Proof.Machine
end

