-- ==== Sys2Proof/Machine/Logic.lean ====
section
/-! DEFINITION. Logic, bit-test, shift and rotate instructions (spec 43_logic_shift.md R180-R187). -/

namespace Sys2Proof.Machine

/-- A logic operation of A and the operand: the result goes to A and sets Z and N (R180-R182). -/
def logic (f : Byte → Byte → Byte) (o : Src) (s : State) : State :=
  let r := readSrc s o
  ((r.2.setA (f s.a r.1)).setZN (f s.a r.1)).charge (readCost s o)

/-- A shift or rotate by one (R184-R187): `f v c` is the result and `out v` the bit shifted out, both of the operand
before the instruction and the carry before it. In memory: one read, one write back. -/
def shift (f : Byte → Bool → Byte) (out : Byte → Bool) (o : Shf) (s : State) : State :=
  match o with
  | .acc => ((s.setA (f s.a s.flags.c)).setFlags (s.flags.ofShift (out s.a) (f s.a s.flags.c))).charge 2
  | .mem m =>
    let r := memRead (ea s m) s
    let v := f r.1 s.flags.c
    ((memWrite (ea s m) v r.2).setFlags (s.flags.ofShift (out r.1) v)).charge (rmwCost m)

/-- The result of ASL (R184). -/
def aslValue (v : Byte) (_ : Bool) : Byte := v <<< 1

/-- The result of LSR (R185). -/
def lsrValue (v : Byte) (_ : Bool) : Byte := v >>> 1

/-- The result of ROL (R186): `((v << 1) | C) & 0xFF`. -/
def rolValue (v : Byte) (c : Bool) : Byte := (v <<< 1) ||| bitByte c

/-- The result of ROR (R187): `(v >> 1) | (C << 7)`. -/
def rorValue (v : Byte) (c : Bool) : Byte := (v >>> 1) ||| (bitByte c <<< 7)

/-- Bit 7, shifted out to the left (R184, R186). -/
def outLeft (v : Byte) : Bool := v.getLsbD 7

/-- Bit 0, shifted out to the right (R185, R187). -/
def outRight (v : Byte) : Bool := v.getLsbD 0

/-- AND (R180). -/
def execAnd (o : Src) (s : State) : Result := .next (logic (· &&& ·) o s)

/-- ORA (R181). -/
def execOra (o : Src) (s : State) : Result := .next (logic (· ||| ·) o s)

/-- EOR (R182). -/
def execEor (o : Src) (s : State) : Result := .next (logic (· ^^^ ·) o s)

/-- BIT (R183): A unchanged, nothing written to memory. -/
def execBit (m : Mem) (s : State) : Result :=
  let r := memRead (ea s m) s
  .next ((r.2.setFlags (s.flags.ofBit s.a r.1)).charge (readCost s (.mem m)))

/-- ASL (R184). -/
def execAsl (o : Shf) (s : State) : Result := .next (shift aslValue outLeft o s)

/-- LSR (R185). -/
def execLsr (o : Shf) (s : State) : Result := .next (shift lsrValue outRight o s)

/-- ROL (R186). -/
def execRol (o : Shf) (s : State) : Result := .next (shift rolValue outLeft o s)

/-- ROR (R187). -/
def execRor (o : Shf) (s : State) : Result := .next (shift rorValue outRight o s)

end Sys2Proof.Machine
end

