-- ==== Sys2Proof/Machine/Stack.lean ====
section
/-! DEFINITION. Stack instructions (spec 41_stack.md R150-R153). -/

namespace Sys2Proof.Machine

/-- PHA (R150). -/
def execPha (s : State) : Result := .next ((push s.a s).charge 3)

/-- PHP (R151): bits 4 and 5 of the pushed byte are 1. -/
def execPhp (s : State) : Result := .next ((push (s.flags.pack true) s).charge 3)

/-- PLA (R152). -/
def execPla (s : State) : Result :=
  .next ((((pulled s).setA (pullByte s)).setZN (pullByte s)).charge 4)

/-- PLP (R153): bits 4 and 5 of the pulled byte are discarded. -/
def execPlp (s : State) : Result := .next (((pulled s).setFlags (Flags.unpack (pullByte s))).charge 4)

end Sys2Proof.Machine
end

