-- ==== Sys2Proof/Machine/System.lean ====
section
/-! DEFINITION. Flag instructions, NOP, BRK, RTI (spec 45_flags_system.md R220-R229) and the illegal opcodes
(30_encoding.md R110). -/

namespace Sys2Proof.Machine

/-- CLC (R220). -/
def execClc (s : State) : Result := .next ((s.setFlags { s.flags with c := false }).charge 2)

/-- SEC (R221). -/
def execSec (s : State) : Result := .next ((s.setFlags { s.flags with c := true }).charge 2)

/-- CLI (R222). -/
def execCli (s : State) : Result := .next ((s.setFlags { s.flags with i := false }).charge 2)

/-- SEI (R223). -/
def execSei (s : State) : Result := .next ((s.setFlags { s.flags with i := true }).charge 2)

/-- CLV (R224). -/
def execClv (s : State) : Result := .next ((s.setFlags { s.flags with v := false }).charge 2)

/-- CLD (R225). -/
def execCld (s : State) : Result := .next ((s.setFlags { s.flags with d := false }).charge 2)

/-- SED (R226). -/
def execSed (s : State) : Result := .next ((s.setFlags { s.flags with d := true }).charge 2)

/-- NOP (R227): nothing but the fetch that advanced PC. -/
def execNop (s : State) : Result := .next (s.charge 2)

/-- BRK (R228): the byte after the opcode is skipped, unread; then the interrupt entry with the marker set, which
charges its 7 cycles. -/
def execBrk (s : State) : Result := .next (interruptEntry irqVector true (s.setPc (s.pc + 1)))

/-- RTI (R229). -/
def execRti (s : State) : Result := .next ((interruptReturn s).charge 6)

/-- An illegal opcode byte (R110; D6): nothing but the fetch that advanced PC; one cycle. DESIGN CHOICE of the spec
(log entry 1). -/
def execIllegal (_ : Byte) (s : State) : Result := .next (s.charge 1)

end Sys2Proof.Machine
end

