-- ==== Sys2Proof/Machine/Boundary.lean ====
section
/-! DEFINITION. What happens at an instruction boundary (spec 60_exceptions.md R245, R246; 30_encoding.md R112). -/

namespace Sys2Proof.Machine

/-- `ExecuteInstruction()` (30_encoding.md R112): fetch the instruction's bytes and run its operation. -/
def executeInstruction (s : State) : Result := exec (fetchInstr s).1 (fetchInstr s).2

/-- `Step()` (60_exceptions.md R245): exactly one of reset, NMI delivery, IRQ delivery, one instruction, in this
order. -/
def boundary (s : State) : Result :=
  if s.resetReq then .next (doReset s)
  else if s.nmiPending then .next (interruptEntry nmiVector false { s with nmiPending := false })
  else if s.irqLine && !s.flags.i then .next (interruptEntry irqVector false s)
  else executeInstruction s

/-- Let the stall a step leaves pass (70_reset_and_hazards.md R320). -/
def settleResult : Result → Result
  | .next s => .next s.settle
  | .fault r => .fault r
  | .refused r => .refused r

end Sys2Proof.Machine
end

