-- ==== Sys2Proof/Machine/Step.lean ====
section
/-! DEFINITION. One step of the machine: one invocation of `Step()` (spec 00_scope.md R6, 60_exceptions.md R245) in the
instruction-level view of time (70_reset_and_hazards.md R320): a stall left from before passes first, and the stall the
step leaves passes after it. The one-cycle view is `cpuCycle` of Machine/HostOps.lean. -/

namespace Sys2Proof.Machine

/-- One step. A machine with no cartridge is given no meaning (D22). -/
def step (s : State) : Host.Outcome State Fault Refusal :=
  match s.cart with
  | none => .refused .noCartridge
  | some _ => settleResult (boundary s.settle)

/-- The mapper finds distinct bytes for nearby addresses whatever the free values are: every variant but the
shift-register one, whose bank arithmetic is free. -/
def Mapper.placesCode : Mapper → Bool
  | .fixed | .switchPrg _ | .switchChr _ => true
  | .shiftReg _ => false

/-- An address whose byte a program can be placed at: internal RAM, present extended RAM, the program window. -/
def State.holdsCode (s : State) (a : Addr) : Bool :=
  match region a with
  | .ram _ => true
  | .program _ => s.cart.any (·.mapper.placesCode)
  | .extRam _ => s.hasExtRam
  | .device _ | .writeOnly _ | .dmaTrigger | .unregistered => false

/-- Put a byte behind an address of storage: what a load from outside does (log entry 5). In the program window it is
the image's byte that is set, which no step can do. -/
def State.placeByte (a : Addr) (v : Byte) (s : State) : State :=
  match region a with
  | .ram k => { s with mem := Memory.write s.mem k v }
  | .extRam k => { s with mem := Memory.write s.mem k v }
  | .program p => { s with cart := s.cart.map fun c => { c with prg := Memory.write c.prg (c.prgCell p) v } }
  | .device _ | .writeOnly _ | .dmaTrigger | .unregistered => s

/-- The next step is an instruction: no event is pending and there is a cartridge; PC goes to 0x0000 where one of the
three bytes at PC is no storage (log entry 5). -/
def State.readyToFetch (s : State) : State :=
  let s1 := { s with
    resetReq := false
    nmiPending := false
    irqLine := false
    cart := some (s.cart.getD Cartridge.blank) }
  if s1.holdsCode s.pc && s1.holdsCode (s.pc + 1) && s1.holdsCode (s.pc + 2) then s1 else s1.setPc 0x0000

/-- `s` with the instruction whose bits are `w` (as spec/opcode_table.json numbers them, `nbits` of them) placed where
the next step fetches. -/
def State.withFetchWord (s : State) (nbits w : Nat) : State :=
  let v := w % 2 ^ nbits
  let s1 := s.readyToFetch
  ((s1.placeByte s1.pc (BitVec.ofNat 8 v)).placeByte (s1.pc + 1) (BitVec.ofNat 8 (v / 256))).placeByte (s1.pc + 2)
    (BitVec.ofNat 8 (v / 65536))

end Sys2Proof.Machine
end

