-- ==== Sys2Proof/Machine/HostOps.lean ====
section
/-! DEFINITION. What the outside world can do to the machine between steps or between CPU cycles (spec
70_reset_and_hazards.md R320, R330, R331; 60_exceptions.md R242, R243, R260, R261, R263, R264; 20_memory.md R75). -/

namespace Sys2Proof.Machine

/-! ## The cartridge image (20_memory.md R75) -/

/-- Bytes at consecutive addresses, in canonical form. -/
def Memory.ofBytes : Nat → List Byte → Memory
  | _, [] => []
  | k, v :: vs => Memory.cons k v (Memory.ofBytes (k + 1) vs)

/-- The mapper of a mapper id with its registers as at insertion (R70; log entries 14, 15); an id the machine does not
know is a load failure. -/
def Mapper.ofId (id : Byte) : Option Mapper :=
  match id.toNat with
  | 0 => some .fixed
  | 1 => some (.shiftReg { shift := [], regs := Config.insertedRegs, fixedLast := Config.insertedFixedLast })
  | 2 => some (.switchPrg Config.insertedBank)
  | 3 => some (.switchChr Config.insertedChrBank)
  | _ => none

/-- The mirroring mode of header byte 6: bit 3 overrides with four-screen, bit 0 is 0 for horizontal, 1 for vertical. -/
def Mirroring.ofHeader (b6 : Byte) : Mirroring :=
  if b6.getLsbD 3 then .fourScreen else if b6.getLsbD 0 then .vertical else .horizontal

/-- The four bytes `N E S 0x1A` a cartridge image begins with (R75). -/
def imageMagic : List Byte := [0x4E, 0x45, 0x53, 0x1A]

/-- The cartridge of an image (R75), or none where the load fails: bad magic, an unknown mapper id, or an image
shorter than its header says (log entry 16). -/
def Cartridge.ofImage (bytes : List Byte) : Option Cartridge :=
  let b4 := bytes.getD 4 0
  let b5 := bytes.getD 5 0
  let b6 := bytes.getD 6 0
  let b7 := bytes.getD 7 0
  let prgSize := 16384 * b4.toNat
  if bytes.take 4 = imageMagic ∧ 16 + prgSize + 8192 * b5.toNat ≤ bytes.length then
    (Mapper.ofId ((b7 &&& 0xF0) ||| (b6 >>> 4))).map fun mapper =>
      { mapper := mapper
        prgBanks := b4
        chrBanks := b5
        extRam := b6.getLsbD 1
        mirroring := Mirroring.ofHeader b6
        prg := Memory.ofBytes 0 ((bytes.drop 16).take prgSize)
        chr := Memory.ofBytes 0 ((bytes.drop (16 + prgSize)).take (8192 * b5.toNat)) }
  else none

/-- The memory without the extended RAM, which belongs to the cartridge (R57; log entry 17). -/
def Memory.internal (m : Memory) : Memory := m.filter (fun c => c.1 < 0x800)

/-- The PictureBus's storage without the graphics RAM, which belongs to the cartridge (20_memory.md R75; log entry 17). -/
def Picture.internal (p : Picture) : Picture := { p with graphicsRam := [] }

/-- The memories of a cartridge leave with it (log entry 17). -/
def State.eject (s : State) : State :=
  { s with cart := none, mem := Memory.internal s.mem, picture := s.picture.internal }

/-- A cartridge is inserted and `Reset()` is applied before the first step (R330, D22). DESIGN CHOICE (log entries 17, 33):
at once, the PPU's reset included. -/
def State.insert (c : Cartridge) (s : State) : State := doReset { s.eject with cart := some c }

/-! ## Host and platform events -/

/-- What the host or the platform does between steps. -/
inductive HostEvent where
  /-- `loadCartridge` with the bytes of an image (R330, R75) -/
  | loadCartridge (image : List Byte)
  /-- `removeCartridge` (R330) -/
  | removeCartridge
  /-- `reset` (R301, R330) -/
  | reset
  /-- one PPU cycle, in which the render pipeline finds a sprite 0 collision or not (60_exceptions.md R242, R262) -/
  | ppuCycle (hit : Bool)
  /-- the OR of the IRQ sources (60_exceptions.md R243) -/
  | irqLevel (level : Bool)
  /-- a controller button write (60_exceptions.md R264) -/
  | buttons (port : Port) (bitmap : Byte)
  /-- the APU's sample channel reads a byte through the MainBus (60_exceptions.md R263) -/
  | sampleFetch (a : Addr)
  deriving DecidableEq, Repr

/-- The effect of an event on the machine. -/
def hostEvent (e : HostEvent) (s : State) : State :=
  match e with
  | .loadCartridge image =>
    match Cartridge.ofImage image with
    | some c => s.insert c
    | none => s
  | .removeCartridge => s.eject
  | .reset => { s with resetReq := true, skip := 0 }
  | .ppuCycle hit => s.ppuCycle hit
  | .irqLevel level => { s with irqLine := level }
  | .buttons port bitmap => { s.emit (.buttons port bitmap) with pads := s.pads.press port bitmap }
  | .sampleFetch a => (memRead a s).2

/-! ## One CPU cycle at a time (70_reset_and_hazards.md R320) -/

/-- A reset the host has asked for is performed between cycles and costs nothing (R301, R320). DESIGN CHOICE (log entry 33):
when it reaches the PPU and the APU, of which the spec says only that they are reset by their own rules (R303): with the
core, here. `runCycle` does it before its three PPU cycles, so that none of them is lost; `cpuCycle` by itself does it
where the request has not been taken before. -/
def State.takeReset (s : State) : State := if s.resetReq then doReset s else s

/-- One CPU cycle: `if skip > 0 then skip <- skip - 1 else (cost <- Step(); skip <- skip + cost - 1); cycles <- cycles + 1`
(R320). -/
def cpuCycle (s : State) : Result :=
  match s.cart with
  | none => .refused .noCartridge
  | some _ =>
    let s1 := s.takeReset
    if 0 < s1.skip then .next { s1 with skip := s1.skip - 1, cycles := s1.cycles + 1 }
    else
      match boundary s1 with
      | .next t => .next { t with skip := t.skip - 1, cycles := t.cycles + 1 }
      | .fault r => .fault r
      | .refused r => .refused r

/-- `n` CPU cycles, stopping at the first that has no meaning. -/
def cpuCycles : Nat → State → Result
  | 0, s => .next s
  | n + 1, s =>
    match cpuCycle s with
    | .next t => cpuCycles n t
    | .fault r => .fault r
    | .refused r => .refused r

/-! ## The orchestrator (60_exceptions.md R260, R261; 70_reset_and_hazards.md R331) -/

/-- The core and how often the picture and sound units have been stepped (R260; 95_test_vectors.md S5). -/
structure Console where
  cpu : State
  ppuCycles : Nat
  apuCycles : Nat
  deriving DecidableEq, Repr

/-- What the units around the core find in one `runCycle`, where the spec leaves their internals out. -/
structure CycleInput where
  /-- a sprite 0 collision in each of the three PPU cycles -/
  hits : Vector Bool 3
  /-- the address the APU's sample channel reads in the APU cycle, if it reads one -/
  sample : Option Addr
  /-- the IRQ level after the APU cycle -/
  irq : Bool
  deriving DecidableEq, Repr

/-- The three PPU cycles of a `runCycle`, which come before its CPU cycle (R260). -/
def ppuPhase (inp : CycleInput) (s : State) : State :=
  ((s.ppuCycle inp.hits[0]).ppuCycle inp.hits[1]).ppuCycle inp.hits[2]

/-- The APU cycle of a `runCycle`, which comes after its CPU cycle (R260): the sample channel may read a byte through the
MainBus (R263), and the APU sets the IRQ level (R243). DESIGN CHOICE (log entry 34): the spec says only that the read falls
between the core's steps; the model makes it here, at most one in an APU cycle, before the IRQ level. -/
def apuPhase (inp : CycleInput) (s : State) : State :=
  hostEvent (.irqLevel inp.irq)
    (match inp.sample with
      | some a => hostEvent (.sampleFetch a) s
      | none => s)

/-- `runCycle` (R260): three PPU cycles, one CPU cycle, one APU cycle, in that order. DESIGN CHOICE (log entry 33): a reset
the host has asked for since the last `runCycle` is performed before the first of them, as R301's "between two `runCycle`
calls" allows, so the PPU's counters start from their reset values with these three PPU cycles. -/
def runCycle (inp : CycleInput) (c : Console) : Host.Outcome Console Fault Refusal :=
  match cpuCycle (ppuPhase inp c.cpu.takeReset) with
  | .next t => .next { cpu := apuPhase inp t, ppuCycles := c.ppuCycles + 3, apuCycles := c.apuCycles + 1 }
  | .fault r => .fault r
  | .refused r => .refused r

/-- One `runCycle` per input, in order. -/
def runCycles : List CycleInput → Console → Host.Outcome Console Fault Refusal
  | [], c => .next c
  | inp :: inps, c =>
    match runCycle inp c with
    | .next d => runCycles inps d
    | .fault r => .fault r
    | .refused r => .refused r

/-- `runFrame` (R261): `CYCLES_PER_FRAME` cycles, with the platform's inputs to each. -/
def runFrame (inputs : Vector CycleInput Config.cyclesPerFrame.val) (c : Console) : Host.Outcome Console Fault Refusal :=
  runCycles inputs.toList c

/-- The console and the host's saved copy of one (R331). -/
structure Emulator where
  now : Console
  saved : Option Console
  deriving DecidableEq, Repr

/-- `backupState` (R331): a copy by value; no-op if no cartridge is loaded. -/
def Emulator.backup (e : Emulator) : Emulator := if e.now.cpu.cart.isSome then { e with saved := some e.now } else e

/-- `restoreState` (R331): the saved copy replaces the machine; no-op if no cartridge is loaded. DESIGN CHOICE (log entry
28): with nothing backed up yet the machine stays as it is, and the saved copy stays saved. -/
def Emulator.restore (e : Emulator) : Emulator :=
  if e.now.cpu.cart.isSome then { e with now := e.saved.getD e.now } else e

/-- A serialized machine; a field may be missing (R331). DESIGN CHOICE (log entry 29): the spec gives no field list (N29);
each register, each flag, each input, the memory, the cartridge, the PPU, the PictureBus, the controllers, the devices'
record and each count is a field of its own. -/
structure Saved where
  a : Option Byte
  x : Option Byte
  y : Option Byte
  sp : Option Byte
  pc : Option Addr
  c : Option Bool
  z : Option Bool
  i : Option Bool
  d : Option Bool
  v : Option Bool
  n : Option Bool
  nmiPending : Option Bool
  irqLine : Option Bool
  resetReq : Option Bool
  cycles : Option Nat
  skip : Option Nat
  mem : Option Memory
  cart : Option (Option Cartridge)
  ppu : Option Ppu
  picture : Option Picture
  pads : Option Pads
  io : Option (List IoEvent)
  ppuCycles : Option Nat
  apuCycles : Option Nat
  deriving DecidableEq, Repr

/-- Full-state serialization: every field present (R330, R331). -/
def Console.serialize (m : Console) : Saved :=
  { a := some m.cpu.a
    x := some m.cpu.x
    y := some m.cpu.y
    sp := some m.cpu.sp
    pc := some m.cpu.pc
    c := some m.cpu.flags.c
    z := some m.cpu.flags.z
    i := some m.cpu.flags.i
    d := some m.cpu.flags.d
    v := some m.cpu.flags.v
    n := some m.cpu.flags.n
    nmiPending := some m.cpu.nmiPending
    irqLine := some m.cpu.irqLine
    resetReq := some m.cpu.resetReq
    cycles := some m.cpu.cycles
    skip := some m.cpu.skip
    mem := some m.cpu.mem
    cart := some m.cpu.cart
    ppu := some m.cpu.ppu
    picture := some m.cpu.picture
    pads := some m.cpu.pads
    io := some m.cpu.io
    ppuCycles := some m.ppuCycles
    apuCycles := some m.apuCycles }

/-- The flags of a serialized machine, a missing one left as it is (R331). -/
def Flags.deserialize (f : Saved) (g : Flags) : Flags :=
  { c := f.c.getD g.c
    z := f.z.getD g.z
    i := f.i.getD g.i
    d := f.d.getD g.d
    v := f.v.getD g.v
    n := f.n.getD g.n }

/-- The core, its memory and the devices of a serialized machine, a missing field left as it is (R331). -/
def State.deserialize (f : Saved) (s : State) : State :=
  { a := f.a.getD s.a
    x := f.x.getD s.x
    y := f.y.getD s.y
    sp := f.sp.getD s.sp
    pc := f.pc.getD s.pc
    flags := s.flags.deserialize f
    nmiPending := f.nmiPending.getD s.nmiPending
    irqLine := f.irqLine.getD s.irqLine
    resetReq := f.resetReq.getD s.resetReq
    cycles := f.cycles.getD s.cycles
    skip := f.skip.getD s.skip
    mem := f.mem.getD s.mem
    cart := f.cart.getD s.cart
    ppu := f.ppu.getD s.ppu
    picture := f.picture.getD s.picture
    pads := f.pads.getD s.pads
    io := f.io.getD s.io }

/-- Deserialization: the whole machine is replaced, a missing field left as it is (R331). -/
def Console.deserialize (f : Saved) (m : Console) : Console :=
  { cpu := m.cpu.deserialize f
    ppuCycles := f.ppuCycles.getD m.ppuCycles
    apuCycles := f.apuCycles.getD m.apuCycles }

end Sys2Proof.Machine
end

