-- ==== Sys2Proof/Safety.lean ====
section
/-! DEFINITION. What counts as a legal state and a safe run, in the terms the claims use. -/

namespace Sys2Proof.Machine

/-- A cell of storage: internal RAM (20_memory.md R52) or the extended RAM window (R57). -/
def isStorageCell (k : Nat) : Bool := k < 0x800 || (0x6000 ≤ k && k < 0x8000)

/-- The mapper's registers are ones R72 can leave: fewer than five bytes wait in the shift register. -/
def Mapper.legal : Mapper → Bool
  | .shiftReg r => r.shift.length < 5
  | .fixed | .switchPrg _ | .switchChr _ => true

/-- The cartridge is one a load makes: canonical program and graphics images of the sizes its header says, legal mapper
registers. -/
def Cartridge.legal (c : Cartridge) : Bool :=
  Memory.wf c.prg && c.prg.all (fun e => e.1 < c.prgSize) && Memory.wf c.chr &&
    c.chr.all (fun e => e.1 < 0x2000 * c.chrBanks.toNat) && c.mapper.legal

/-- The PPU's counters are in range and its phase is that of its scanline (60_exceptions.md R262). -/
def Ppu.legal (p : Ppu) : Bool := decide (p.scanline < 262) && decide (p.dot < 341) && p.phase == phaseOf p.scanline

/-- The memories on the PictureBus are in canonical form (20_memory.md R82). -/
def Picture.legal (p : Picture) : Bool :=
  decide (∀ b : Fin 4, Memory.wf p.nametables[b] = true) && Memory.wf p.palette && Memory.wf p.graphicsRam

/-- A legal state: memory in canonical form, holding storage cells only, a legal cartridge, a legal PPU and legal memories
on the PictureBus. -/
def State.legal (s : State) : Bool :=
  Memory.wf s.mem && s.mem.all (fun c => isStorageCell c.1) && s.cart.all (·.legal) && s.ppu.legal && s.picture.legal

/-- The step answers a next state. -/
def Runs (r : Result) : Prop := ∃ t, r = .next t

end Sys2Proof.Machine
end

