-- ==== Sys2Proof/Certificates/Slice0/Obligations.lean ====
section
/-! DEFINITION. The statements for the provers. Each docstring names the rule of spec/ it formalises. A statement about
an instruction runs `exec`, that is, in the state after the instruction's bytes have been fetched (00_scope.md R9). -/

open Sys2Proof Sys2Proof.Machine

namespace Sys2Proof.Claims

/-! ## Words the statements share -/

/-- The operand's byte: an immediate itself, or what a read of the effective address answers. -/
def operandByte (s : State) : Src → Byte
  | .imm v => v
  | .mem m => peek s (ea s m)

/-- The devices' record after one read of an address: longer by that read where the address is a device register's, the
eight PPU registers at 0x2000-0x3FFF or 0x4015-0x4017 (20_memory.md R54, R60, Table R51). -/
def ioAfterRead (s : State) (a : Addr) : List IoEvent :=
  if 0x2000 ≤ a.toNat ∧ a.toNat < 0x4000 then .read (0x2000 ||| (a &&& 0x0007)) :: s.io
  else if 0x4015 ≤ a.toNat ∧ a.toNat < 0x4018 then .read a :: s.io
  else s.io

/-- The PPU after one read of an address: reading 0x2002, at any of its mirrors, clears the vertical-blank flag
(43_logic_shift.md R183; 20_memory.md R54). -/
def ppuAfterRead (s : State) (a : Addr) : Ppu :=
  if 0x2000 ≤ a.toNat ∧ a.toNat < 0x4000 ∧ a &&& 0x0007 = 0x0002 then { s.ppu with verticalBlank := false } else s.ppu

/-- The state after one read of an address. -/
def afterRead (s : State) (a : Addr) : State := { s with io := ioAfterRead s a, ppu := ppuAfterRead s a }

/-- The devices' record after the operand is read once. -/
def ioAfterSrc (s : State) : Src → List IoEvent
  | .imm _ => s.io
  | .mem m => ioAfterRead s (ea s m)

/-- The PPU after the operand is read once. -/
def ppuAfterSrc (s : State) : Src → Ppu
  | .imm _ => s.ppu
  | .mem m => ppuAfterRead s (ea s m)

/-- The 256 bytes of a DMA lie in sprite memory in ascending order from `start` on, around its end (60_exceptions.md
R265). -/
def LandsInOam (start : Byte) (bytes : Nat → Byte) (oam : Vector Byte 256) : Prop :=
  ∀ k : Nat, k < 256 → oam[(start.toNat + k) % 256]? = some (bytes k)

/-- `SetZN(v)` in the words of 10_state.md R37: Z is 1 when the byte is 0x00, N is its bit 7. -/
def znOf (f : Flags) (v : Byte) : Flags := { f with z := decide (v = 0), n := v.msb }

/-- The eight opcodes of an instruction with the forms of LDA, from the opcode of its column (Tables R130, R160, ...). -/
def EncodesAlu (mk : Src → Instr) (base : Byte) : Prop :=
  ∀ b1 b2 : Byte,
    ofBytes (base ||| 0x09) b1 b2 = mk (.imm b1) ∧
    ofBytes (base ||| 0x05) b1 b2 = mk (.mem (.zp b1)) ∧
    ofBytes (base ||| 0x15) b1 b2 = mk (.mem (.zpx b1)) ∧
    ofBytes (base ||| 0x0D) b1 b2 = mk (.mem (.abs (word16 b2 b1))) ∧
    ofBytes (base ||| 0x1D) b1 b2 = mk (.mem (.absx (word16 b2 b1))) ∧
    ofBytes (base ||| 0x19) b1 b2 = mk (.mem (.absy (word16 b2 b1))) ∧
    ofBytes (base ||| 0x01) b1 b2 = mk (.mem (.indx b1)) ∧
    ofBytes (base ||| 0x11) b1 b2 = mk (.mem (.indy b1))

/-- The four memory opcodes of a read-modify-write instruction (Tables R165, R168, R184-R187). -/
def EncodesRmw (mk : Mem → Instr) (base : Byte) : Prop :=
  ∀ b1 b2 : Byte,
    ofBytes (base ||| 0x06) b1 b2 = mk (.zp b1) ∧
    ofBytes (base ||| 0x16) b1 b2 = mk (.zpx b1) ∧
    ofBytes (base ||| 0x0E) b1 b2 = mk (.abs (word16 b2 b1)) ∧
    ofBytes (base ||| 0x1E) b1 b2 = mk (.absx (word16 b2 b1))

/-- The opcode of an instruction without operand bytes. -/
def EncodesImpl (i : Instr) (op : Byte) : Prop := ∀ b1 b2 : Byte, ofBytes op b1 b2 = i

/-- The opcode of a branch. -/
def EncodesRel (mk : Byte → Instr) (op : Byte) : Prop := ∀ b1 b2 : Byte, ofBytes op b1 b2 = mk b1

/-- Two addresses are handled by the same thing: the same cell or register, or both by the mapper. -/
def SamePlace (a b : Addr) : Prop := region a = region b ∨ (0x8000 ≤ a.toNat ∧ 0x8000 ≤ b.toNat)

/-- The addresses an instruction stores to, computed as its meaning computes them. -/
def storeAddrs (s : State) : Instr → List Addr
  | .sta m | .stx m | .sty m | .inc m | .dec m => [ea s m]
  | .asl (.mem m) | .lsr (.mem m) | .rol (.mem m) | .ror (.mem m) => [ea s m]
  | .pha | .php => [stackAddr s.sp]
  | .jsr _ => [stackAddr s.sp, stackAddr (s.sp - 1)]
  | .brk => [stackAddr s.sp, stackAddr (s.sp - 1), stackAddr (s.sp - 2)]
  | _ => []

/-- The instructions that write A (10_state.md R22). -/
def writesA : Instr → Bool
  | .lda _ | .pla | .txa | .tya | .adc _ | .sbc _ | .and _ | .ora _ | .eor _ => true
  | .asl .acc | .lsr .acc | .rol .acc | .ror .acc => true
  | _ => false

/-- The instructions that write X (R23). -/
def writesX : Instr → Bool
  | .ldx _ | .tax | .tsx | .inx | .dex => true
  | _ => false

/-- The instructions that write Y (R24). -/
def writesY : Instr → Bool
  | .ldy _ | .tay | .iny | .dey => true
  | _ => false

/-- The instructions that write SP: pushes, pulls, TXS (R25). -/
def writesSp : Instr → Bool
  | .pha | .php | .pla | .plp | .txs | .jsr _ | .rts | .brk | .rti => true
  | _ => false

/-- The instructions that write PC besides the fetch (R26). -/
def writesPc : Instr → Bool
  | .jmp _ | .jsr _ | .rts | .rti | .brk => true
  | .bcc _ | .bcs _ | .beq _ | .bne _ | .bmi _ | .bpl _ | .bvc _ | .bvs _ => true
  | _ => false

/-- The instructions that write C (R28). -/
def writesC : Instr → Bool
  | .adc _ | .sbc _ | .cmp _ | .cpx _ | .cpy _ | .asl _ | .lsr _ | .rol _ | .ror _ | .clc | .sec | .plp | .rti => true
  | _ => false

/-- The instructions that write Z and N (R29, R33). -/
def writesZN : Instr → Bool
  | .lda _ | .ldx _ | .ldy _ | .tax | .tay | .txa | .tya | .tsx | .pla | .adc _ | .sbc _ | .cmp _ | .cpx _ | .cpy _
  | .inc _ | .inx | .iny | .dec _ | .dex | .dey | .and _ | .ora _ | .eor _ | .asl _ | .lsr _ | .rol _ | .ror _
  | .bit _ | .plp | .rti => true
  | _ => false

/-- The instructions that write I (R30). -/
def writesI : Instr → Bool
  | .sei | .cli | .plp | .rti | .brk => true
  | _ => false

/-- The instructions that write D (R31). -/
def writesD : Instr → Bool
  | .sed | .cld | .plp | .rti => true
  | _ => false

/-- The instructions that write V (R32). -/
def writesV : Instr → Bool
  | .adc _ | .sbc _ | .bit _ | .clv | .plp | .rti => true
  | _ => false

/-- The instructions that push the flags byte, and so read D (R31). -/
def pushesFlags : Instr → Bool
  | .php | .brk => true
  | _ => false

/-- The state with another D flag. -/
def withD (d : Bool) (s : State) : State := { s with flags := { s.flags with d := d } }

/-- An outcome with the D flag of its state put at 0. -/
def dropD : Result → Result
  | .next t => .next (withD false t)
  | .fault r => .fault r
  | .refused r => .refused r

/-- What no step may change of a cartridge: the images, the bank counts, the presence of extended RAM (20_memory.md R58,
R75). -/
def imageOf (s : State) : Option (Memory × Memory × Byte × Byte × Bool) :=
  s.cart.map fun c => (c.prg, c.chr, c.prgBanks, c.chrBanks, c.extRam)

/-- No event is taken at the boundary (60_exceptions.md R245): no reset request, no NMI, no unmasked IRQ. -/
def Undisturbed (s : State) : Prop :=
  s.resetReq = false ∧ s.nmiPending = false ∧ (s.irqLine = false ∨ s.flags.i = true)

end Sys2Proof.Claims

open Sys2Proof.Claims

/-! ## Encoding -/

/-- Decoding inverts encoding: 30_encoding.md R90, R107, Tables R130 to R229 against Table R108. -/
def Obligations.DecodeInvertsEncode : Prop :=
  ∀ (i : Instr) (rest : List Byte), i.wf = true → decode (encode i ++ rest) = .ok (i, rest)

/-- What decodes is well formed and encodes back: no operand form outside R107 and no illegal byte outside Table R110 is
decoded, and every opcode byte and every operand bit is kept (30_encoding.md R90, R92, R107, R110). -/
def Obligations.EncodeInvertsDecode : Prop :=
  ∀ (bytes rest : List Byte) (i : Instr), decode bytes = .ok (i, rest) → i.wf = true ∧ bytes = encode i ++ rest

/-- The opcode alone fixes the length (R90, R111): whatever follows, the same number of bytes is taken, 1, 2 or 3. -/
def Obligations.OpcodeFixesLength : Prop :=
  ∀ (op : Byte) (more more' rest rest' : List Byte) (i i' : Instr),
    decode (op :: more) = .ok (i, rest) → decode (op :: more') = .ok (i', rest') →
    i.operandBytes = i'.operandBytes ∧ i.operandBytes ≤ 2 ∧ rest = more.drop i.operandBytes ∧
      i.operandBytes ≤ more.length

/-- Words written out from the spec (95_test_vectors.md section 3) decode to what it says. A sanity statement. -/
def Obligations.SpecWordsDecode : Prop :=
  decode [0xA9, 0x44] = .ok (.lda (.imm 0x44), []) ∧
  decode [0xB6, 0x44] = .ok (.ldx (.mem (.zpy 0x44)), []) ∧
  decode [0xBD, 0x00, 0x44] = .ok (.lda (.mem (.absx 0x4400)), []) ∧
  decode [0x9A] = .ok (.txs, []) ∧
  decode [0x48] = .ok (.pha, []) ∧
  decode [0xE9, 0x01] = .ok (.sbc (.imm 0x01), []) ∧
  decode [0x0E, 0x34, 0x12] = .ok (.asl (.mem (.abs 0x1234)), []) ∧
  decode [0x6C, 0xFF, 0x02] = .ok (.jmp (.ind 0x02FF), []) ∧
  decode [0xD0, 0xFE] = .ok (.bne 0xFE, []) ∧
  decode [0x00] = .ok (.brk, []) ∧
  decode [0xEB, 0x01] = .ok (.illegal 0xEB, [0x01])

/-- The 105 illegal bytes (R110, D6; log entry 1): each decodes as one byte whatever follows, and does nothing but cost
one cycle. The behaviour is the spec's decision D6. -/
def Obligations.IllegalOpcodesAreOneByteNoOps : Prop :=
  ∀ (op : Byte) (rest : List Byte), isIllegal op = true →
    decode (op :: rest) = .ok (.illegal op, rest) ∧
      ∀ s : State, exec (.illegal op) s = .next { s with skip := s.skip + 1 }

/-! ## The step -/

/-- A step of an undisturbed machine fetches at PC, each byte once and in order, devices included, and runs what it
fetched (30_encoding.md R91, R112; 60_exceptions.md R245); and where the bytes at PC are no device's and decode to `i`,
that is `exec` of `i` with PC past the instruction's bytes, between the passing of the stall before it and of the stall it
leaves (70_reset_and_hazards.md R320). -/
def Obligations.StepRunsDecodedInstruction : Prop :=
  ∀ s : State, s.cart.isSome = true → Undisturbed s →
    step s = settleResult (exec (fetchInstr s.settle).1 (fetchInstr s.settle).2) ∧
    ∀ (i : Instr) (rest : List Byte),
      decode [peek s s.pc, peek s (s.pc + 1), peek s (s.pc + 2)] = .ok (i, rest) →
      (∀ k : Nat, k ≤ i.operandBytes → isDevice (s.pc + BitVec.ofNat 16 k) = false) →
      step s = settleResult (exec i { s.settle with pc := s.pc + BitVec.ofNat 16 (i.operandBytes + 1) })

/-- The order of the boundary check (60_exceptions.md R245, R246; D5): reset, then NMI, then an unmasked IRQ. -/
def Obligations.BoundaryPriority : Prop :=
  ∀ s : State, s.cart.isSome = true →
    (s.resetReq = true → step s = .next (doReset s.settle).settle) ∧
    (s.resetReq = false → s.nmiPending = true →
      step s = .next (interruptEntry 0xFFFA false { s.settle with nmiPending := false }).settle) ∧
    (s.resetReq = false → s.nmiPending = false → s.irqLine = true → s.flags.i = false →
      step s = .next (interruptEntry 0xFFFE false s.settle).settle)

/-- A masked IRQ changes nothing and is not remembered (60_exceptions.md R244): with I set, no reset request and no NMI,
the step with the line at 1 is the step with the line at 0, but for the line itself. -/
def Obligations.MaskedIrqIsIgnored : Prop :=
  ∀ s : State, s.cart.isSome = true → s.resetReq = false → s.nmiPending = false → s.flags.i = true →
    ∃ t : State, step { s with irqLine := false } = .next t ∧
      step { s with irqLine := true } = .next { t with irqLine := true }

/-- No instruction stops the machine (60_exceptions.md R241); a machine with a cartridge always takes a step (R267), and
one without is given no meaning (D22, log entry 4). -/
def Obligations.StepAnswersExactlyWithCartridge : Prop :=
  (∀ (i : Instr) (s : State), ∃ t : State, exec i s = .next t) ∧
  ∀ s : State, (s.cart.isSome = true → ∃ t : State, step s = .next t) ∧
    (s.cart = none → step s = .refused .noCartridge)

/-! ## Reset -/

/-- `Reset()` (70_reset_and_hazards.md R300, R302, R303; the values are the spec's decisions D1 and D8; the withdrawn IRQ
level is log entry 10, the kept mapper registers log entry 27, the PPU log entries 32 and 33, the kept PictureBus and
controllers log entries 35 and 37): the registers' values, PC from the reset vector, no byte of memory changed, and NMI not
enabled in the PPU (R304). `State.reset` holds the same values, with
the cartridge of log entry 4. -/
def Obligations.ResetLeavesSpecState : Prop :=
  (∀ s : State,
    (doReset s).a = 0x00 ∧ (doReset s).x = 0x00 ∧ (doReset s).y = 0x00 ∧ (doReset s).sp = 0xFD ∧
    (doReset s).flags = { c := false, z := false, i := true, d := false, v := false, n := false } ∧
    (doReset s).nmiPending = false ∧ (doReset s).irqLine = false ∧ (doReset s).resetReq = false ∧
    (doReset s).cycles = 0 ∧ (doReset s).skip = 0 ∧ (doReset s).ppu.nmiEnabled = false ∧
    (doReset s).pc.toNat = (peek s 0xFFFC).toNat + 256 * (peek s 0xFFFD).toNat ∧
    (doReset s).cart = s.cart ∧ (doReset s).picture = s.picture ∧ (doReset s).pads = s.pads ∧
    ∀ a : Addr, isDevice a = false → peek (doReset s) a = peek s a) ∧
  { doReset State.reset with io := [] } = State.reset

/-! ## Interrupt entry and return -/

/-- `InterruptEntry(vector, b)` (60_exceptions.md R247): PC high, PC low and the flags byte lie on the stack, SP is three
less, I is set, PC comes from the vector, seven cycles are charged, and nothing else changes. -/
def Obligations.InterruptEntrySavesPcAndFlags : Prop :=
  ∀ (vector : Addr) (b : Bool) (s : State), s.legal = true → 0x8000 ≤ vector.toNat →
    let t := interruptEntry vector b s
    peek t (stackAddr s.sp) = hiByte s.pc ∧
    peek t (stackAddr (s.sp - 1)) = loByte s.pc ∧
    peek t (stackAddr (s.sp - 2)) = s.flags.pack b ∧
    t = { s with
      mem := t.mem
      sp := s.sp - 3
      flags := { s.flags with i := true }
      pc := word16 (peek s (vector + 1)) (peek s vector)
      skip := s.skip + 7 } ∧
    ∀ a : Addr, isDevice a = false → region a ≠ region (stackAddr s.sp) → region a ≠ region (stackAddr (s.sp - 1)) →
      region a ≠ region (stackAddr (s.sp - 2)) → peek t a = peek s a

/-- BRK (45_flags_system.md R228): the interrupt entry of vector 0xFFFE with the marker, from one more than PC. -/
def Obligations.BrkEntersThroughIrqVector : Prop :=
  EncodesImpl .brk 0x00 ∧
  ∀ s : State, exec .brk s = .next (interruptEntry 0xFFFE true { s with pc := s.pc + 1 })

/-- RTI (45_flags_system.md R229; 60_exceptions.md R250): the three pulled bytes are the flags, PC low and PC high. -/
def Obligations.RtiPullsFlagsThenPc : Prop :=
  EncodesImpl .rti 0x40 ∧
  ∀ s : State, exec .rti s = .next { s with
    flags := Flags.unpack (peek s (stackAddr (s.sp + 1)))
    pc := word16 (peek s (stackAddr (s.sp + 3))) (peek s (stackAddr (s.sp + 2)))
    sp := s.sp + 3
    skip := s.skip + 6 }

/-- An interrupt can be returned from exactly (60_exceptions.md R249): RTI after an entry gives back PC, SP and the
six flags, with A, X, Y as they were. -/
def Obligations.RtiUndoesInterruptEntry : Prop :=
  ∀ (vector : Addr) (b : Bool) (s : State), s.legal = true →
    ∃ t : State, exec .rti (interruptEntry vector b s) = .next t ∧
      t.pc = s.pc ∧ t.sp = s.sp ∧ t.flags = s.flags ∧ t.a = s.a ∧ t.x = s.x ∧ t.y = s.y

/-! ## The flags byte -/

/-- `PackP(b)` (10_state.md R35), bit by bit: N, V, 1, the marker, D, I, Z, C from bit 7 down; with the rule's example. -/
def Obligations.PackPLaysOutFlags : Prop :=
  (∀ (f : Flags) (b : Bool),
    (f.pack b).getLsbD 7 = f.n ∧ (f.pack b).getLsbD 6 = f.v ∧ (f.pack b).getLsbD 5 = true ∧ (f.pack b).getLsbD 4 = b ∧
    (f.pack b).getLsbD 3 = f.d ∧ (f.pack b).getLsbD 2 = f.i ∧ (f.pack b).getLsbD 1 = f.z ∧
    (f.pack b).getLsbD 0 = f.c) ∧
  (∀ f : Flags, f = { c := false, z := false, i := true, d := false, v := false, n := false } →
    f.pack false = 0x24 ∧ f.pack true = 0x34)

/-- `UnpackP(v)` (10_state.md R36): each flag from its bit; bits 4 and 5 are ignored; `UnpackP` undoes `PackP` whatever
the marker, which the spec derives from R35 and R36. -/
def Obligations.UnpackPUndoesPackP : Prop :=
  (∀ v : Byte, Flags.unpack v =
    { c := v.getLsbD 0, z := v.getLsbD 1, i := v.getLsbD 2, d := v.getLsbD 3, v := v.getLsbD 6, n := v.getLsbD 7 }) ∧
  (∀ v w : Byte, v &&& 0xCF = w &&& 0xCF → Flags.unpack v = Flags.unpack w) ∧
  ∀ (f : Flags) (b : Bool), Flags.unpack (f.pack b) = f

/-! ## Effective addresses -/

/-- The effective addresses (30_encoding.md R96-R101, R103, R104) as numbers: zero-page sums wrap at 256, absolute sums at
65536; both bytes of a zero-page pointer come from page 0, the second from the next address modulo 256. -/
def Obligations.EffectiveAddressesAsNumbers : Prop :=
  ∀ (s : State) (z : Byte) (base : Addr),
    (ea s (.zp z)).toNat = z.toNat ∧
    (ea s (.zpx z)).toNat = (z.toNat + s.x.toNat) % 256 ∧
    (ea s (.zpy z)).toNat = (z.toNat + s.y.toNat) % 256 ∧
    ea s (.abs base) = base ∧
    (ea s (.absx base)).toNat = (base.toNat + s.x.toNat) % 65536 ∧
    (ea s (.absy base)).toNat = (base.toNat + s.y.toNat) % 65536 ∧
    (ea s (.indx z)).toNat =
      (Memory.read s.mem ((z.toNat + s.x.toNat) % 256)).toNat +
        256 * (Memory.read s.mem ((z.toNat + s.x.toNat + 1) % 256)).toNat ∧
    (ea s (.indy z)).toNat =
      ((Memory.read s.mem z.toNat).toNat + 256 * (Memory.read s.mem ((z.toNat + 1) % 256)).toNat + s.y.toNat) % 65536

/-- The indirect jump's defect (30_encoding.md R102, 70_reset_and_hazards.md R316): the high byte's address keeps the
pointer's page; it is the next address exactly when the pointer is not at its page's last byte. -/
def Obligations.IndirectJumpWrapsInPage : Prop :=
  ∀ ptr : Addr,
    hiByte (indirectHiAddr ptr) = hiByte ptr ∧ loByte (indirectHiAddr ptr) = loByte ptr + 1 ∧
    (loByte ptr ≠ 0xFF → indirectHiAddr ptr = ptr + 1) ∧
    (loByte ptr = 0xFF → indirectHiAddr ptr = ptr - 0xFF)

/-! ## Loads, stores, transfers -/

/-- LDA, LDX, LDY (40_load_store_transfer.md R130-R132), in every operand form. -/
def Obligations.LoadsTakeOperandAndSetZN : Prop :=
  (∀ (o : Src) (s : State), exec (.lda o) s = .next { s with
    a := operandByte s o, flags := znOf s.flags (operandByte s o), io := ioAfterSrc s o, ppu := ppuAfterSrc s o
    skip := s.skip + readCost s o }) ∧
  (∀ (o : Src) (s : State), exec (.ldx o) s = .next { s with
    x := operandByte s o, flags := znOf s.flags (operandByte s o), io := ioAfterSrc s o, ppu := ppuAfterSrc s o
    skip := s.skip + readCost s o }) ∧
  (∀ (o : Src) (s : State), exec (.ldy o) s = .next { s with
    y := operandByte s o, flags := znOf s.flags (operandByte s o), io := ioAfterSrc s o, ppu := ppuAfterSrc s o
    skip := s.skip + readCost s o }) ∧
  EncodesAlu .lda 0xA0 ∧
  ∀ b1 b2 : Byte,
    ofBytes 0xA2 b1 b2 = .ldx (.imm b1) ∧ ofBytes 0xA6 b1 b2 = .ldx (.mem (.zp b1)) ∧
    ofBytes 0xB6 b1 b2 = .ldx (.mem (.zpy b1)) ∧ ofBytes 0xAE b1 b2 = .ldx (.mem (.abs (word16 b2 b1))) ∧
    ofBytes 0xBE b1 b2 = .ldx (.mem (.absy (word16 b2 b1))) ∧
    ofBytes 0xA0 b1 b2 = .ldy (.imm b1) ∧ ofBytes 0xA4 b1 b2 = .ldy (.mem (.zp b1)) ∧
    ofBytes 0xB4 b1 b2 = .ldy (.mem (.zpx b1)) ∧ ofBytes 0xAC b1 b2 = .ldy (.mem (.abs (word16 b2 b1))) ∧
    ofBytes 0xBC b1 b2 = .ldy (.mem (.absx (word16 b2 b1)))

/-- STA, STX, STY (40_load_store_transfer.md R133-R135) complete with one write of the register at the effective address:
registers, flags and inputs are unchanged, and where the address is internal RAM, the byte is there. -/
def Obligations.StoresWriteRegisterAtEffectiveAddress : Prop :=
  (∀ (m : Mem) (s : State) (i : Instr) (v : Byte),
    (i = .sta m ∧ v = s.a) ∨ (i = .stx m ∧ v = s.x) ∨ (i = .sty m ∧ v = s.y) →
    ∃ t : State, exec i s = .next t ∧
      t.a = s.a ∧ t.x = s.x ∧ t.y = s.y ∧ t.sp = s.sp ∧ t.pc = s.pc ∧ t.flags = s.flags ∧
      t.nmiPending = s.nmiPending ∧ t.irqLine = s.irqLine ∧ t.resetReq = s.resetReq ∧ t.cycles = s.cycles ∧
      t.mem = (memWrite (ea s m) v s).mem ∧ t.cart = (memWrite (ea s m) v s).cart ∧ t.io = (memWrite (ea s m) v s).io ∧
      t.ppu = (memWrite (ea s m) v s).ppu ∧ t.picture = (memWrite (ea s m) v s).picture ∧
      t.pads = (memWrite (ea s m) v s).pads ∧
      t.skip = (memWrite (ea s m) v s).skip + storeCost m ∧
      ((ea s m).toNat < 0x2000 → s.legal = true → peek t (ea s m) = v ∧ t.skip = s.skip + storeCost m)) ∧
  ∀ b1 b2 : Byte,
    ofBytes 0x85 b1 b2 = .sta (.zp b1) ∧ ofBytes 0x95 b1 b2 = .sta (.zpx b1) ∧
    ofBytes 0x8D b1 b2 = .sta (.abs (word16 b2 b1)) ∧ ofBytes 0x9D b1 b2 = .sta (.absx (word16 b2 b1)) ∧
    ofBytes 0x99 b1 b2 = .sta (.absy (word16 b2 b1)) ∧ ofBytes 0x81 b1 b2 = .sta (.indx b1) ∧
    ofBytes 0x91 b1 b2 = .sta (.indy b1) ∧
    ofBytes 0x86 b1 b2 = .stx (.zp b1) ∧ ofBytes 0x96 b1 b2 = .stx (.zpy b1) ∧
    ofBytes 0x8E b1 b2 = .stx (.abs (word16 b2 b1)) ∧
    ofBytes 0x84 b1 b2 = .sty (.zp b1) ∧ ofBytes 0x94 b1 b2 = .sty (.zpx b1) ∧
    ofBytes 0x8C b1 b2 = .sty (.abs (word16 b2 b1))

/-- TAX, TAY, TXA, TYA, TSX set Z and N from the byte copied; TXS sets no flag (R136-R141). -/
def Obligations.TransfersCopyRegister : Prop :=
  (∀ s : State,
    exec .tax s = .next { s with x := s.a, flags := znOf s.flags s.a, skip := s.skip + 2 } ∧
    exec .tay s = .next { s with y := s.a, flags := znOf s.flags s.a, skip := s.skip + 2 } ∧
    exec .txa s = .next { s with a := s.x, flags := znOf s.flags s.x, skip := s.skip + 2 } ∧
    exec .tya s = .next { s with a := s.y, flags := znOf s.flags s.y, skip := s.skip + 2 } ∧
    exec .tsx s = .next { s with x := s.sp, flags := znOf s.flags s.sp, skip := s.skip + 2 } ∧
    exec .txs s = .next { s with sp := s.x, skip := s.skip + 2 }) ∧
  EncodesImpl .tax 0xAA ∧ EncodesImpl .tay 0xA8 ∧ EncodesImpl .txa 0x8A ∧ EncodesImpl .tya 0x98 ∧
  EncodesImpl .tsx 0xBA ∧ EncodesImpl .txs 0x9A

/-! ## Stack -/

/-- PHA and PHP (41_stack.md R150, R151; 20_memory.md R63): the byte lies at `0x0100 | SP`, SP is one less modulo 256,
nothing else changes; PHP's byte has bits 4 and 5 set. -/
def Obligations.PushesStoreThenDecrement : Prop :=
  EncodesImpl .pha 0x48 ∧ EncodesImpl .php 0x08 ∧
  ∀ (s : State) (i : Instr) (v : Byte), s.legal = true →
    (i = .pha ∧ v = s.a) ∨ (i = .php ∧ v = s.flags.pack true) →
    ∃ t : State, exec i s = .next t ∧
      t = { s with mem := t.mem, sp := s.sp - 1, skip := s.skip + 3 } ∧
      peek t (0x0100 ||| s.sp.setWidth 16) = v ∧
      ∀ a : Addr, isDevice a = false → region a ≠ region (0x0100 ||| s.sp.setWidth 16) → peek t a = peek s a

/-- PLA and PLP (41_stack.md R152, R153; 20_memory.md R64): SP is one more modulo 256, the byte is the one at the new
`0x0100 | SP`. -/
def Obligations.PullsIncrementThenRead : Prop :=
  EncodesImpl .pla 0x68 ∧ EncodesImpl .plp 0x28 ∧
  ∀ s : State,
    let v := peek s (0x0100 ||| (s.sp + 1).setWidth 16)
    exec .pla s = .next { s with a := v, flags := znOf s.flags v, sp := s.sp + 1, skip := s.skip + 4 } ∧
    exec .plp s = .next { s with
      flags := { c := v.getLsbD 0, z := v.getLsbD 1, i := v.getLsbD 2, d := v.getLsbD 3, v := v.getLsbD 6, n := v.getLsbD 7 }
      sp := s.sp + 1
      skip := s.skip + 4 }

/-! ## Arithmetic -/

/-- ADC (42_arithmetic.md R160): A is the low byte of the sum of A, the operand and C; C is the carry out; V is the
document's formula; Z and N come from the new A; I and D are unchanged. -/
def Obligations.AdcAddsWithCarry : Prop :=
  EncodesAlu .adc 0x60 ∧
  ∀ (o : Src) (s : State),
    let m := operandByte s o
    let result := s.a.toNat + m.toNat + s.flags.c.toNat
    let r := BitVec.ofNat 8 (result % 256)
    exec (.adc o) s = .next { s with
      a := r
      flags := { c := decide (255 < result), z := decide (r = 0), i := s.flags.i, d := s.flags.d
                 v := decide ((s.a ^^^ r) &&& (m ^^^ r) &&& 0x80 ≠ 0), n := r.msb }
      io := ioAfterSrc s o, ppu := ppuAfterSrc s o
      skip := s.skip + readCost s o }

/-- SBC (42_arithmetic.md R161) as subtraction: A is `A - m - (1 - C)` modulo 256, C is 1 when no borrow occurred, V is
the formula with the complemented operand, Z and N come from the new A. -/
def Obligations.SbcSubtractsWithBorrow : Prop :=
  EncodesAlu .sbc 0xE0 ∧
  ∀ (o : Src) (s : State),
    let m := operandByte s o
    let r := s.a - m - (if s.flags.c then 0 else 1)
    exec (.sbc o) s = .next { s with
      a := r
      flags := { c := decide (m.toNat + (if s.flags.c then 0 else 1) ≤ s.a.toNat), z := decide (r = 0)
                 i := s.flags.i, d := s.flags.d
                 v := decide ((s.a ^^^ r) &&& ((~~~m) ^^^ r) &&& 0x80 ≠ 0), n := r.msb }
      io := ioAfterSrc s o, ppu := ppuAfterSrc s o
      skip := s.skip + readCost s o }

/-- The V flag reports the signed outcome (42_arithmetic.md R159): after ADC it is 1 exactly when the true signed sum is
outside -128 to 127, after SBC exactly when the true signed difference is. -/
def Obligations.OverflowIsSignedOverflow : Prop :=
  ∀ (o : Src) (s : State),
    (∃ t : State, exec (.adc o) s = .next t ∧
      (t.flags.v = true ↔
        (s.a.toInt + (operandByte s o).toInt + s.flags.c.toNat < -128 ∨
          127 < s.a.toInt + (operandByte s o).toInt + s.flags.c.toNat))) ∧
    (∃ t : State, exec (.sbc o) s = .next t ∧
      (t.flags.v = true ↔
        (s.a.toInt - (operandByte s o).toInt - (1 - (s.flags.c.toNat : Int)) < -128 ∨
          127 < s.a.toInt - (operandByte s o).toInt - (1 - (s.flags.c.toNat : Int)))))

/-- No instruction's result depends on D (10_state.md R31; the spec's decision D2): but for PHP and BRK, which push it,
every instruction does the same with D at 0 and D at 1, the D flag itself left aside. -/
def Obligations.DecimalFlagHasNoEffect : Prop :=
  ∀ (i : Instr) (s : State) (d : Bool), pushesFlags i = false → dropD (exec i (withD d s)) = dropD (exec i s)

/-- CMP, CPX, CPY (42_arithmetic.md R162-R164): C is `register >= operand` unsigned, Z equality, N bit 7 of the
difference; the register and V, I, D are unchanged. -/
def Obligations.ComparesSetCarryZeroNegative : Prop :=
  (∀ (o : Src) (s : State) (i : Instr) (r : Byte),
    (i = .cmp o ∧ r = s.a) ∨ (i = .cpx o ∧ r = s.x) ∨ (i = .cpy o ∧ r = s.y) →
    exec i s = .next { s with
      flags := { s.flags with
        c := decide ((operandByte s o).toNat ≤ r.toNat), z := decide (r = operandByte s o)
        n := (r - operandByte s o).msb }
      io := ioAfterSrc s o, ppu := ppuAfterSrc s o
      skip := s.skip + readCost s o }) ∧
  EncodesAlu .cmp 0xC0 ∧
  ∀ b1 b2 : Byte,
    ofBytes 0xE0 b1 b2 = .cpx (.imm b1) ∧ ofBytes 0xE4 b1 b2 = .cpx (.mem (.zp b1)) ∧
    ofBytes 0xEC b1 b2 = .cpx (.mem (.abs (word16 b2 b1))) ∧
    ofBytes 0xC0 b1 b2 = .cpy (.imm b1) ∧ ofBytes 0xC4 b1 b2 = .cpy (.mem (.zp b1)) ∧
    ofBytes 0xCC b1 b2 = .cpy (.mem (.abs (word16 b2 b1)))

/-- INX, INY, DEX, DEY (42_arithmetic.md R166, R167, R169, R170): modulo 256, Z and N, C and V unchanged. -/
def Obligations.RegisterIncrementsWrap : Prop :=
  (∀ s : State,
    exec .inx s = .next { s with
      x := BitVec.ofNat 8 ((s.x.toNat + 1) % 256), flags := znOf s.flags (s.x + 1), skip := s.skip + 2 } ∧
    exec .iny s = .next { s with
      y := BitVec.ofNat 8 ((s.y.toNat + 1) % 256), flags := znOf s.flags (s.y + 1), skip := s.skip + 2 } ∧
    exec .dex s = .next { s with
      x := BitVec.ofNat 8 ((s.x.toNat + 255) % 256), flags := znOf s.flags (s.x - 1), skip := s.skip + 2 } ∧
    exec .dey s = .next { s with
      y := BitVec.ofNat 8 ((s.y.toNat + 255) % 256), flags := znOf s.flags (s.y - 1), skip := s.skip + 2 }) ∧
  EncodesImpl .inx 0xE8 ∧ EncodesImpl .iny 0xC8 ∧ EncodesImpl .dex 0xCA ∧ EncodesImpl .dey 0x88

/-- INC, DEC and the memory forms of the shifts (42_arithmetic.md R165, R168; 43_logic_shift.md R184-R187) read the
operand once and write it back once: what the write does is what a write of the result to the effective address does
after the read; Z and N come from the result; C from the bit shifted out; V, I, D and the registers are unchanged. -/
def Obligations.ReadModifyWriteCompletes : Prop :=
  (∀ (m : Mem) (s : State) (i : Instr) (r : Byte) (c : Bool),
    let v := peek s (ea s m)
    (i = .inc m ∧ r = v + 1 ∧ c = s.flags.c) ∨ (i = .dec m ∧ r = v - 1 ∧ c = s.flags.c) ∨
    (i = .asl (.mem m) ∧ r = v <<< 1 ∧ c = v.getLsbD 7) ∨ (i = .lsr (.mem m) ∧ r = v >>> 1 ∧ c = v.getLsbD 0) ∨
    (i = .rol (.mem m) ∧ r = (v <<< 1) ||| (if s.flags.c then 0x01 else 0x00) ∧ c = v.getLsbD 7) ∨
    (i = .ror (.mem m) ∧ r = (v >>> 1) ||| (if s.flags.c then 0x80 else 0x00) ∧ c = v.getLsbD 0) →
    ∃ t : State, exec i s = .next t ∧
      t.a = s.a ∧ t.x = s.x ∧ t.y = s.y ∧ t.sp = s.sp ∧ t.pc = s.pc ∧ t.flags = { znOf s.flags r with c := c } ∧
      t.nmiPending = s.nmiPending ∧ t.irqLine = s.irqLine ∧ t.resetReq = s.resetReq ∧ t.cycles = s.cycles ∧
      t.mem = (memWrite (ea s m) r (afterRead s (ea s m))).mem ∧
      t.cart = (memWrite (ea s m) r (afterRead s (ea s m))).cart ∧
      t.io = (memWrite (ea s m) r (afterRead s (ea s m))).io ∧
      t.ppu = (memWrite (ea s m) r (afterRead s (ea s m))).ppu ∧
      t.picture = (memWrite (ea s m) r (afterRead s (ea s m))).picture ∧
      t.pads = (memWrite (ea s m) r (afterRead s (ea s m))).pads ∧
      t.skip = (memWrite (ea s m) r (afterRead s (ea s m))).skip + rmwCost m ∧
      ((ea s m).toNat < 0x2000 → s.legal = true → peek t (ea s m) = r ∧ t.skip = s.skip + rmwCost m)) ∧
  EncodesRmw .inc 0xE0 ∧ EncodesRmw .dec 0xC0 ∧
  EncodesRmw (fun m => .asl (.mem m)) 0x00 ∧ EncodesRmw (fun m => .rol (.mem m)) 0x20 ∧
  EncodesRmw (fun m => .lsr (.mem m)) 0x40 ∧ EncodesRmw (fun m => .ror (.mem m)) 0x60

/-! ## Logic and shifts -/

/-- AND, ORA, EOR (43_logic_shift.md R180-R182). -/
def Obligations.LogicWritesAAndZN : Prop :=
  (∀ (o : Src) (s : State) (i : Instr) (r : Byte),
    (i = .and o ∧ r = s.a &&& operandByte s o) ∨ (i = .ora o ∧ r = s.a ||| operandByte s o) ∨
      (i = .eor o ∧ r = s.a ^^^ operandByte s o) →
    exec i s = .next { s with
      a := r, flags := znOf s.flags r, io := ioAfterSrc s o, ppu := ppuAfterSrc s o, skip := s.skip + readCost s o }) ∧
  EncodesAlu .and 0x20 ∧ EncodesAlu .ora 0x00 ∧ EncodesAlu .eor 0x40

/-- BIT (43_logic_shift.md R183; 90_conflicts.md C2): Z from `A & m`, N and V from bits 7 and 6 of `m`. -/
def Obligations.BitTestsMemoryAgainstA : Prop :=
  (∀ (m : Mem) (s : State),
    let v := peek s (ea s m)
    exec (.bit m) s = .next { s with
      flags := { s.flags with z := decide (s.a &&& v = 0), n := v.getLsbD 7, v := v.getLsbD 6 }
      io := ioAfterRead s (ea s m)
      ppu := ppuAfterRead s (ea s m)
      skip := s.skip + readCost s (.mem m) }) ∧
  ∀ b1 b2 : Byte, ofBytes 0x24 b1 b2 = .bit (.zp b1) ∧ ofBytes 0x2C b1 b2 = .bit (.abs (word16 b2 b1))

/-- The accumulator forms of ASL, LSR, ROL, ROR (43_logic_shift.md R184-R187), as numbers. -/
def Obligations.AccumulatorShiftsMoveOneBit : Prop :=
  (∀ (s : State) (i : Instr) (r : Byte) (c : Bool),
    (i = .asl .acc ∧ r = BitVec.ofNat 8 (2 * s.a.toNat) ∧ c = decide (128 ≤ s.a.toNat)) ∨
    (i = .lsr .acc ∧ r = BitVec.ofNat 8 (s.a.toNat / 2) ∧ c = decide (s.a.toNat % 2 = 1)) ∨
    (i = .rol .acc ∧ r = BitVec.ofNat 8 (2 * s.a.toNat + s.flags.c.toNat) ∧ c = decide (128 ≤ s.a.toNat)) ∨
    (i = .ror .acc ∧ r = BitVec.ofNat 8 (s.a.toNat / 2 + 128 * s.flags.c.toNat) ∧ c = decide (s.a.toNat % 2 = 1)) →
    exec i s = .next { s with a := r, flags := { znOf s.flags r with c := c }, skip := s.skip + 2 }) ∧
  EncodesImpl (.asl .acc) 0x0A ∧ EncodesImpl (.lsr .acc) 0x4A ∧ EncodesImpl (.rol .acc) 0x2A ∧
  EncodesImpl (.ror .acc) 0x6A

/-! ## Control flow -/

/-- JMP (44_control_flow.md R200; 30_encoding.md R99, R102), both modes, devices' pointers included. -/
def Obligations.JmpGoesToTarget : Prop :=
  (∀ (target : Addr) (s : State), exec (.jmp (.abs target)) s = .next { s with pc := target, skip := s.skip + 3 }) ∧
  (∀ (ptr : Addr) (s : State), isDevice ptr = false → isDevice (indirectHiAddr ptr) = false →
    exec (.jmp (.ind ptr)) s = .next { s with
      pc := word16 (peek s (indirectHiAddr ptr)) (peek s ptr), skip := s.skip + 5 }) ∧
  (∀ (ptr : Addr) (s : State), ∃ t : State, exec (.jmp (.ind ptr)) s = .next t ∧
    t = { afterRead (afterRead s ptr) (indirectHiAddr ptr) with pc := t.pc, skip := s.skip + 5 } ∧
    loByte t.pc = peek s ptr ∧ hiByte t.pc = peek (afterRead s ptr) (indirectHiAddr ptr)) ∧
  ∀ b1 b2 : Byte, ofBytes 0x4C b1 b2 = .jmp (.abs (word16 b2 b1)) ∧ ofBytes 0x6C b1 b2 = .jmp (.ind (word16 b2 b1))

/-- JSR (44_control_flow.md R201): the address of its last byte lies on the stack, high byte above low byte. -/
def Obligations.JsrPushesReturnMinusOne : Prop :=
  (∀ (target : Addr) (s : State), s.legal = true →
    ∃ t : State, exec (.jsr target) s = .next t ∧
      t = { s with mem := t.mem, sp := s.sp - 2, pc := target, skip := s.skip + 6 } ∧
      peek t (stackAddr s.sp) = hiByte (s.pc - 1) ∧ peek t (stackAddr (s.sp - 1)) = loByte (s.pc - 1)) ∧
  ∀ b1 b2 : Byte, ofBytes 0x20 b1 b2 = .jsr (word16 b2 b1)

/-- RTS (44_control_flow.md R202): PC is one more than the pulled address. -/
def Obligations.RtsReturnsOnePastPulled : Prop :=
  EncodesImpl .rts 0x60 ∧
  ∀ s : State, exec .rts s = .next { s with
    pc := word16 (peek s (stackAddr (s.sp + 2))) (peek s (stackAddr (s.sp + 1))) + 1
    sp := s.sp + 2
    skip := s.skip + 6 }

/-- RTS after JSR continues at the instruction after the JSR with the stack pointer as before (R201, R202). -/
def Obligations.RtsUndoesJsr : Prop :=
  ∀ (target : Addr) (s : State), s.legal = true →
    ∃ t u : State, exec (.jsr target) s = .next t ∧ exec .rts t = .next u ∧ u.pc = s.pc ∧ u.sp = s.sp

/-- The eight branches (44_control_flow.md R203-R211; 30_encoding.md R105): the flag and polarity each tests, the target
as a number, no flag and no memory touched, and the cost 2, 3 or 4. -/
def Obligations.BranchesTestOneFlag : Prop :=
  (∀ (d : Byte) (s : State) (i : Instr) (cond : Bool),
    (i = .bcc d ∧ cond = !s.flags.c) ∨ (i = .bcs d ∧ cond = s.flags.c) ∨ (i = .beq d ∧ cond = s.flags.z) ∨
    (i = .bne d ∧ cond = !s.flags.z) ∨ (i = .bmi d ∧ cond = s.flags.n) ∨ (i = .bpl d ∧ cond = !s.flags.n) ∨
    (i = .bvc d ∧ cond = !s.flags.v) ∨ (i = .bvs d ∧ cond = s.flags.v) →
    let target := BitVec.ofInt 16 (s.pc.toNat + d.toInt)
    exec i s = .next { s with
      pc := if cond then target else s.pc
      skip := s.skip + (if cond then (if hiByte target = hiByte s.pc then 3 else 4) else 2) }) ∧
  EncodesRel .bcc 0x90 ∧ EncodesRel .bcs 0xB0 ∧ EncodesRel .beq 0xF0 ∧ EncodesRel .bne 0xD0 ∧
  EncodesRel .bmi 0x30 ∧ EncodesRel .bpl 0x10 ∧ EncodesRel .bvc 0x50 ∧ EncodesRel .bvs 0x70

/-! ## Flags and NOP -/

/-- CLC, SEC, CLI, SEI, CLV, CLD, SED and NOP (45_flags_system.md R220-R227). -/
def Obligations.FlagInstructionsWriteOneFlag : Prop :=
  (∀ s : State,
    exec .clc s = .next { s with flags := { s.flags with c := false }, skip := s.skip + 2 } ∧
    exec .sec s = .next { s with flags := { s.flags with c := true }, skip := s.skip + 2 } ∧
    exec .cli s = .next { s with flags := { s.flags with i := false }, skip := s.skip + 2 } ∧
    exec .sei s = .next { s with flags := { s.flags with i := true }, skip := s.skip + 2 } ∧
    exec .clv s = .next { s with flags := { s.flags with v := false }, skip := s.skip + 2 } ∧
    exec .cld s = .next { s with flags := { s.flags with d := false }, skip := s.skip + 2 } ∧
    exec .sed s = .next { s with flags := { s.flags with d := true }, skip := s.skip + 2 } ∧
    exec .nop s = .next { s with skip := s.skip + 2 }) ∧
  EncodesImpl .clc 0x18 ∧ EncodesImpl .sec 0x38 ∧ EncodesImpl .cli 0x58 ∧ EncodesImpl .sei 0x78 ∧
  EncodesImpl .clv 0xB8 ∧ EncodesImpl .cld 0xD8 ∧ EncodesImpl .sed 0xF8 ∧ EncodesImpl .nop 0xEA

/-! ## Frames over every instruction -/

/-- A, X, Y, SP and PC are changed only by the instructions that 10_state.md R22-R26 name. -/
def Obligations.RegistersChangeOnlyByTheirWriters : Prop :=
  ∀ (i : Instr) (s t : State), exec i s = .next t →
    (writesA i = false → t.a = s.a) ∧ (writesX i = false → t.x = s.x) ∧ (writesY i = false → t.y = s.y) ∧
    (writesSp i = false → t.sp = s.sp) ∧ (writesPc i = false → t.pc = s.pc)

/-- Each flag is changed only by the instructions that 10_state.md R28-R33 name. -/
def Obligations.FlagsChangeOnlyByTheirWriters : Prop :=
  ∀ (i : Instr) (s t : State), exec i s = .next t →
    (writesC i = false → t.flags.c = s.flags.c) ∧ (writesZN i = false → t.flags.z = s.flags.z ∧ t.flags.n = s.flags.n) ∧
    (writesI i = false → t.flags.i = s.flags.i) ∧ (writesD i = false → t.flags.d = s.flags.d) ∧
    (writesV i = false → t.flags.v = s.flags.v)

/-- No instruction writes the interrupt inputs (10_state.md R39), and none writes the cartridge, mapper registers included,
but by a store to the program window (20_memory.md R58), the PictureBus but by a store to 0x2007 or a mirror of it (R82), or
the controllers but by a store to 0x4016 (60_exceptions.md R264). Its cost, at least one cycle (70_reset_and_hazards.md R320,
R321), is charged to `skip` and not yet to `cycles`: that is the model's convention of log entry 12. -/
def Obligations.NoInstructionWritesInputs : Prop :=
  ∀ (i : Instr) (s t : State), exec i s = .next t →
    t.nmiPending = s.nmiPending ∧ t.irqLine = s.irqLine ∧ t.resetReq = s.resetReq ∧ t.cycles = s.cycles ∧
    s.skip < t.skip ∧ ((∀ a : Addr, a ∈ storeAddrs s i → a.toNat < 0x8000) → t.cart = s.cart) ∧
    ((∀ a : Addr, a ∈ storeAddrs s i → ¬ (0x2000 ≤ a.toNat ∧ a.toNat < 0x4000 ∧ a &&& 0x0007 = 0x0007)) →
      t.picture = s.picture) ∧
    ((∀ a : Addr, a ∈ storeAddrs s i → a ≠ 0x4016) → t.pads = s.pads)

/-- Every byte that is no device's reads as before, but for the places the instruction stores to (20_memory.md R52, R57,
R58, R68); a store to the program window is a command to the mapper and may change what that window shows. -/
def Obligations.MemoryChangesOnlyWhereStored : Prop :=
  ∀ (i : Instr) (s t : State), exec i s = .next t →
    ∀ b : Addr, isDevice b = false → (∀ a : Addr, a ∈ storeAddrs s i → ¬ SamePlace a b) → peek t b = peek s b

/-! ## Memory and the bus -/

/-- Internal RAM (20_memory.md R52): 2048 cells, each at four addresses. A read of any of them changes nothing; a write
changes nothing but the bytes of memory; the byte written at any of a cell's four addresses is read at each of them, and
no other address of the bus that is no device's reads differently. -/
def Obligations.RamIsMirroredFourTimes : Prop :=
  ∀ (a b : Addr) (v : Byte) (s : State), s.legal = true → a.toNat < 0x2000 →
    (memRead a s).2 = s ∧
    memWrite a v s = { s with mem := (memWrite a v s).mem } ∧
    (b.toNat < 0x2000 → a.toNat % 0x800 = b.toNat % 0x800 → peek (memWrite a v s) b = v ∧ peek s a = peek s b) ∧
    (isDevice b = false → ¬ (b.toNat < 0x2000 ∧ a.toNat % 0x800 = b.toNat % 0x800) → peek (memWrite a v s) b = peek s b)

/-- The windows of Table R51 between internal RAM and the program window. Device registers (20_memory.md R53, R54, R60;
log entry 8): each access of 0x2000-0x3FFF, read or write, of 0x4015-0x4017, read or write, and each write of
0x4000-0x4013 is one event at the register's own address, of whatever mirror it was made. Besides that event a read of
0x2002 clears the PPU's vertical-blank flag, writes of 0x2000 and 0x2001 load its control and mask registers, and a write of
0x2004 changes one byte of sprite memory, the one at the free place `Config.oamAddress` (log entry 31). A write of 0x2007
moves the byte to the PictureBus (R82): after it every PictureBus address that shares the storage of the one written, the
free `Config.pictureAddress` (log entry 36), shows the byte, unless that storage is the graphics image, and every other
shows what it did; a read of 0x2007 answers a free value of the byte there. A strobe write of 0 to 0x4016 latches both
controllers' bitmaps (60_exceptions.md R264; for bytes other than 0x00 log entry 37), a read of 0x4016 or 0x4017 answers a
free value of its port's latched bitmap, and the host writes a port's bitmap at any time. Reads of 0x4000-0x4014 give 0 and
change nothing. Unregistered addresses and the expansion window (R55): reads give 0 and change nothing, writes are dropped.
Extended RAM (R57): plain memory when present; reads 0 and ignores writes when absent. (A write of 0x4014 is
`SpriteDmaCopiesPageAndStalls`; which PictureBus addresses share storage is in `ProgramWindowShowsSelectedBanks`.) -/
def Obligations.IoAndExtendedRamWindows : Prop :=
  ∀ (a : Addr) (v : Byte) (s : State),
    (0x2000 ≤ a.toNat → a.toNat < 0x4000 →
      (memRead a s).2 = { s with
        io := .read (0x2000 ||| (a &&& 0x0007)) :: s.io
        ppu := if a &&& 0x0007 = 0x0002 then { s.ppu with verticalBlank := false } else s.ppu } ∧
      (a &&& 0x0007 = 0x0004 → ∃ oam : Vector Byte 256, ∃ at' : Fin 256,
        at'.val = (Config.oamAddress s.io).toNat ∧ oam[at'] = v ∧ (∀ j : Fin 256, j ≠ at' → oam[j] = s.ppu.oam[j]) ∧
        memWrite a v s = { s with io := .write 0x2004 v :: s.io, ppu := { s.ppu with oam := oam } }) ∧
      (a &&& 0x0007 = 0x0007 →
        peek s a = Config.ioRead s.io s.cycles 0x2007 (.byte (s.readPicture (Config.pictureAddress s.io))) ∧
        memWrite a v s = { s with io := .write 0x2007 v :: s.io, picture := (memWrite a v s).picture } ∧
        (s.legal = true → ∀ p : Addr, (memWrite a v s).readPicture p =
          if s.pictureCell p = s.pictureCell (Config.pictureAddress s.io) ∧
              (s.pictureCell (Config.pictureAddress s.io)).isRam = true then v
          else s.readPicture p)) ∧
      (a &&& 0x0007 ≠ 0x0004 → a &&& 0x0007 ≠ 0x0007 → memWrite a v s = { s with
        io := .write (0x2000 ||| (a &&& 0x0007)) v :: s.io
        ppu := if a &&& 0x0007 = 0x0000 then { s.ppu with control := v }
          else if a &&& 0x0007 = 0x0001 then { s.ppu with mask := v } else s.ppu })) ∧
    (0x4000 ≤ a.toNat → a.toNat < 0x4015 → memRead a s = (0x00, s)) ∧
    (0x4000 ≤ a.toNat → a.toNat < 0x4018 → a ≠ 0x4014 → a ≠ 0x4016 →
      memWrite a v s = { s with io := .write a v :: s.io }) ∧
    (memWrite 0x4016 v s = { s with
      io := .write 0x4016 v :: s.io
      pads := if v = 0x00 ∨ Config.strobeIsZero v = true then
          { one := { buttons := s.pads.one.buttons, latched := s.pads.one.buttons }
            two := { buttons := s.pads.two.buttons, latched := s.pads.two.buttons } }
        else s.pads }) ∧
    (0x4015 ≤ a.toNat → a.toNat < 0x4018 → (memRead a s).2 = { s with io := .read a :: s.io }) ∧
    (peek s 0x4016 = Config.ioRead s.io s.cycles 0x4016 (.latched s.pads.one.latched) ∧
      peek s 0x4017 = Config.ioRead s.io s.cycles 0x4017 (.latched s.pads.two.latched)) ∧
    (hostEvent (.buttons .one v) s = { s with
      io := .buttons .one v :: s.io, pads := { s.pads with one := { s.pads.one with buttons := v } } } ∧
      hostEvent (.buttons .two v) s = { s with
        io := .buttons .two v :: s.io, pads := { s.pads with two := { s.pads.two with buttons := v } } }) ∧
    (0x4018 ≤ a.toNat → a.toNat < 0x6000 → memRead a s = (0x00, s) ∧ memWrite a v s = s) ∧
    (0x6000 ≤ a.toNat → a.toNat < 0x8000 → s.hasExtRam = true → s.legal = true →
      memRead a s = (Memory.read s.mem a.toNat, s) ∧ peek (memWrite a v s) a = v ∧
      memWrite a v s = { s with mem := Memory.write s.mem a.toNat v }) ∧
    (0x6000 ≤ a.toNat → a.toNat < 0x8000 → s.hasExtRam = false → memRead a s = (0x00, s) ∧ memWrite a v s = s)

/-- What the program window shows, by mapper (20_memory.md R70-R74): one bank mirrored or two banks, fixed; the selected bank
low and the last bank high; or, on the shift-register mapper, the byte at a free place of its registers and its program mode
(log entry 14), modulo the size. A write anywhere in the window is ignored by the fixed-bank mapper; selects
the low two bits' graphics bank and changes nothing the window shows; or selects the program bank of any number for the
very next read, low, with the last bank still high. What `readGraphics` answers and `writeGraphics` does (R70-R75): the
image's single fixed 8 KiB bank, its selected bank, or a free place of it (log entry 14), modulo its size, with writes
changing nothing; or 8 KiB of graphics RAM where the image has no graphics data, whatever bank is selected. Which logical
nametables share storage: horizontal, left and right; vertical, top and bottom; one-screen, all (R82); that nothing else
shares, and so nothing under four-screen, is the model's choice (log entry 35). -/
def Obligations.ProgramWindowShowsSelectedBanks : Prop :=
  (∀ (s : State) (c : Cartridge) (a : Addr), s.cart = some c → 0x8000 ≤ a.toNat → 1 ≤ c.prgBanks.toNat →
    ((c.mapper = .fixed ∨ ∃ g, c.mapper = .switchChr g) → c.prgBanks = 1 →
      peek s a = Memory.read c.prg (a.toNat % 0x4000)) ∧
    ((c.mapper = .fixed ∨ ∃ g, c.mapper = .switchChr g) → c.prgBanks = 2 →
      peek s a = Memory.read c.prg (a.toNat - 0x8000)) ∧
    (∀ select : Byte, c.mapper = .switchPrg select → a.toNat < 0xC000 →
      peek s a = Memory.read c.prg ((select.toNat % c.prgBanks.toNat) * 0x4000 + a.toNat % 0x4000)) ∧
    (∀ select : Byte, c.mapper = .switchPrg select → 0xC000 ≤ a.toNat →
      peek s a = Memory.read c.prg ((c.prgBanks.toNat - 1) * 0x4000 + a.toNat % 0x4000)) ∧
    (∀ r : ShiftRegs, c.mapper = .shiftReg r →
      peek s a = Memory.read c.prg (Config.shiftPrgOffset r.regs r.fixedLast a % (0x4000 * c.prgBanks.toNat))) ∧
    (∀ (v : Byte) (w : Addr), c.mapper = .fixed → 0x8000 ≤ w.toNat → memWrite w v s = s) ∧
    (∀ (old : BitVec 2) (v : Byte) (w : Addr), c.mapper = .switchChr old → 0x8000 ≤ w.toNat →
      peek (memWrite w v s) a = peek s a ∧
      ∃ g : BitVec 2, g.toNat = (v &&& 0x03).toNat ∧
        memWrite w v s = { s with cart := some { c with mapper := .switchChr g } }) ∧
    ∀ (old v : Byte) (w : Addr), c.mapper = .switchPrg old → 0x8000 ≤ w.toNat →
      memWrite w v s = { s with cart := some { c with mapper := .switchPrg v } } ∧
      (a.toNat < 0xC000 →
        peek (memWrite w v s) a = Memory.read c.prg ((v.toNat % c.prgBanks.toNat) * 0x4000 + a.toNat % 0x4000)) ∧
      (0xC000 ≤ a.toNat →
        peek (memWrite w v s) a = Memory.read c.prg ((c.prgBanks.toNat - 1) * 0x4000 + a.toNat % 0x4000))) ∧
  (∀ (s : State) (c : Cartridge) (a : Addr) (v : Byte), s.cart = some c →
    (1 ≤ c.chrBanks.toNat →
      s.writeGraphics a v = s ∧
      ((c.mapper = .fixed ∨ ∃ select, c.mapper = .switchPrg select) →
        s.readGraphics a = Memory.read c.chr (a.toNat % 0x2000)) ∧
      (∀ g : BitVec 2, c.mapper = .switchChr g →
        s.readGraphics a = Memory.read c.chr ((g.toNat * 0x2000 + a.toNat % 0x2000) % (0x2000 * c.chrBanks.toNat)) ∧
        (g.toNat < c.chrBanks.toNat → s.readGraphics a = Memory.read c.chr (g.toNat * 0x2000 + a.toNat % 0x2000))) ∧
      ∀ r : ShiftRegs, c.mapper = .shiftReg r →
        s.readGraphics a = Memory.read c.chr (Config.shiftChrOffset r.regs a % (0x2000 * c.chrBanks.toNat))) ∧
    (c.chrBanks = 0 → s.legal = true → (∀ r : ShiftRegs, c.mapper ≠ .shiftReg r) → ∀ b : Addr,
      (s.writeGraphics a v).readGraphics b = if b.toNat % 0x2000 = a.toNat % 0x2000 then v else s.readGraphics b)) ∧
  ∀ (s : State) (c : Cartridge) (bottom right bottom' right' : Bool) (i j : Addr), s.cart = some c →
    (s.targetCell (.nametable bottom right i) = s.targetCell (.nametable bottom' right' j) ↔
      i = j ∧ (c.mirroring = .horizontal → bottom = bottom') ∧ (c.mirroring = .vertical → right = right') ∧
        (c.mirroring = .fourScreen → bottom = bottom' ∧ right = right'))

/-- The shift-register mapper (20_memory.md R58, R72): a bus write anywhere in the program window reaches it, and changes
nothing but the cartridge. A write with the high bit set empties the shift register and forces
fixed-last-bank; the fifth other write empties it and dispatches the assembled value to one of the four internal registers
by its address, the other three unchanged; at `[0x8000,0x9FFF]` the mirroring mode follows the low two bits of the value.
Which value is assembled, which register an address from 0xA000 on selects, and the program mode after a dispatch are free
values, named as such: the statement holds for every one (log entry 14). What a dispatch there does to the mirroring mode is not said (log entry 26). That a dispatch at
`[0x8000,0x9FFF]` also replaces four-screen mirroring is the model's choice (log entry 39). -/
def Obligations.ShiftRegisterMapperDispatchesFifthWrite : Prop :=
  ∀ (c : Cartridge) (r : ShiftRegs) (a : Addr) (v : Byte), c.mapper = .shiftReg r → r.shift.length < 5 →
    (∀ s : State, s.cart = some c → 0x8000 ≤ a.toNat →
      memWrite a v s = { s with cart := some (c.writeProgram a v) }) ∧
    (0x80 ≤ v.toNat →
      c.writeProgram a v = { c with mapper := .shiftReg { r with shift := [], fixedLast := true } }) ∧
    (v.toNat < 0x80 → r.shift.length < 4 →
      c.writeProgram a v = { c with mapper := .shiftReg { r with shift := r.shift ++ [v] } }) ∧
    (v.toNat < 0x80 → r.shift.length = 4 → 0x8000 ≤ a.toNat →
      ∃ (value : BitVec 5) (q : ShiftRegs) (k : Fin 4),
        value = Config.shiftAssemble (r.shift ++ [v]) ∧ k = (if a.toNat < 0xA000 then 0 else Config.shiftRegister a) ∧
        c.writeProgram a v = { c with mapper := .shiftReg q, mirroring := (c.writeProgram a v).mirroring } ∧
        q.shift = [] ∧ q.fixedLast = Config.shiftFixedLast k value r.fixedLast ∧
        q.regs[k] = value ∧ (∀ j : Fin 4, j ≠ k → q.regs[j] = r.regs[j]) ∧
        (a.toNat < 0xA000 →
          (value.extractLsb' 0 2 = 0 → (c.writeProgram a v).mirroring = .oneScreenLow) ∧
          (value.extractLsb' 0 2 = 1 → (c.writeProgram a v).mirroring = .oneScreenHigh) ∧
          (value.extractLsb' 0 2 = 2 → (c.writeProgram a v).mirroring = .vertical) ∧
          (value.extractLsb' 0 2 = 3 → (c.writeProgram a v).mirroring = .horizontal)))

/-- Sprite DMA (60_exceptions.md R265; 70_reset_and_hazards.md R324). From every page: the 256 bytes of the page are read in
ascending order, each once, with the effect every read has on a device, and land in this order in sprite memory; the core
is stalled 513 cycles or 514 on an odd count; no register, flag or byte of memory changes. From a page without device
registers (internal RAM, expansion window, extended RAM, program window) the bytes are simply those the page shows. The
first byte lands at the free place `Config.oamAddress` gives for what the devices have seen before the copy (log entry
31). -/
def Obligations.SpriteDmaCopiesPageAndStalls : Prop :=
  ∀ (v : Byte) (s : State),
    (∃ (f : Nat → State) (oam : Vector Byte 256),
      f 0 = { s with io := .write 0x4014 v :: s.io } ∧
      (∀ k : Nat, k < 256 → f (k + 1) = afterRead (f k) (word16 v (BitVec.ofNat 8 k))) ∧
      LandsInOam (Config.oamAddress (f 256).io) (fun k => peek (f k) (word16 v (BitVec.ofNat 8 k))) oam ∧
      memWrite 0x4014 v s = { f 256 with
        io := .dma v ((List.range 256).map fun k => peek (f k) (word16 v (BitVec.ofNat 8 k))) :: (f 256).io
        ppu := { (f 256).ppu with oam := oam }
        skip := s.skip + (if s.cycles % 2 = 1 then 514 else 513) }) ∧
    (v.toNat < 0x20 ∨ 0x40 < v.toNat →
      ∃ oam : Vector Byte 256,
        LandsInOam (Config.oamAddress (.write 0x4014 v :: s.io)) (fun k => peek s (word16 v (BitVec.ofNat 8 k))) oam ∧
        memWrite 0x4014 v s = { s with
          io := .dma v ((List.range 256).map fun k => peek s (word16 v (BitVec.ofNat 8 k))) :: .write 0x4014 v :: s.io
          ppu := { s.ppu with oam := oam }
          skip := s.skip + (if s.cycles % 2 = 1 then 514 else 513) })

/-! ## The PPU at the core's boundary -/

/-- The PPU's counters and phases (60_exceptions.md R262): 262 scanlines of at most 341 dots, at least one pre-render
scanline, then 240 of render, at least one post-render scanline, then vertical blank, and again; each PPU cycle moves one
dot on, or to the first dot of the next scanline. How the other 22 scanlines divide and how many dots a scanline has are
free values (log entry 30). -/
def Obligations.PpuCyclesThroughFourPhases : Prop :=
  (∃ pre post : Nat, 1 ≤ pre ∧ 1 ≤ post ∧ pre + 240 + post < 262 ∧ ∀ n : Nat, phaseOf n =
    if n < pre then .preRender else if n < pre + 240 then .render
    else if n < pre + 240 + post then .postRender else .verticalBlank) ∧
  ∀ (hit : Bool) (s : State), s.legal = true →
    let p := s.ppu
    let q := (s.ppuCycle hit).ppu
    q.phase = phaseOf q.scanline ∧ q.dot < 341 ∧
      ((q.dot = p.dot + 1 ∧ q.scanline = p.scanline ∧ q.phase = p.phase) ∨
        (q.dot = 0 ∧ q.scanline = (p.scanline + 1) % 262)) ∧
      q.control = p.control ∧ q.mask = p.mask ∧ q.oam = p.oam ∧
      s.ppuCycle hit = { s with ppu := q, nmiPending := (s.ppuCycle hit).nmiPending }

/-- NMI and the two status flags (60_exceptions.md R242, R262). A PPU cycle sets the vertical-blank flag and, if bit 7 of
the control register enables it, raises NMI when it enters vertical blank, and only then: a cycle inside vertical blank or
in another phase raises none. A cycle of render in which a sprite 0 collision is found sets the flag that records it.
Entering pre-render leaves free values in both flags (log entry 31); no other cycle changes either. -/
def Obligations.NmiRaisedOnceOnVerticalBlankEntry : Prop :=
  ∀ (hit : Bool) (s : State),
    let p := s.ppu
    let t := s.ppuCycle hit
    let q := t.ppu
    (p.phase ≠ .verticalBlank → q.phase = .verticalBlank →
      q.verticalBlank = true ∧ t.nmiPending = (s.nmiPending || p.control.getLsbD 7)) ∧
    (p.phase = .verticalBlank ∨ q.phase ≠ .verticalBlank → t.nmiPending = s.nmiPending) ∧
    (hit = true → q.phase = .render → q.sprite0Hit = true) ∧
    (p.phase ≠ .preRender → q.phase = .preRender →
      (q.verticalBlank, q.sprite0Hit) = Config.statusAtPreRender q.frame (p.verticalBlank, p.sprite0Hit)) ∧
    (p.phase = .preRender ∨ q.phase ≠ .preRender →
      (p.phase = .verticalBlank ∨ q.phase ≠ .verticalBlank → q.verticalBlank = p.verticalBlank) ∧
      (hit = false ∨ q.phase ≠ .render → q.sprite0Hit = p.sprite0Hit))

/-- The cartridge image is immutable (20_memory.md R58, R75): no step changes a byte of its program or graphics data, their
sizes or the presence of extended RAM, whatever the program stores where. -/
def Obligations.NoStepChangesProgramImage : Prop :=
  ∀ s t : State, step s = .next t → imageOf t = imageOf s

/-! ## Invariant -/

/-- The machine at reset is legal: memory in canonical form. -/
def Obligations.ResetStateIsLegal : Prop := State.reset.legal = true

/-- Every step keeps a legal state legal: memory stays in canonical form and holds storage cells only (no write to a
device, an unregistered address or the program window adds a byte), the images stay canonical and within their sizes,
the shift register holds fewer than five writes, the PPU's counters stay in range, and the memories on the PictureBus stay
canonical. -/
def Obligations.StepKeepsLegal : Prop :=
  ∀ s t : State, s.legal = true → step s = .next t → t.legal = true

/-- Every host or platform event keeps a legal state legal (70_reset_and_hazards.md R330; 20_memory.md R75). -/
def Obligations.HostEventsKeepLegal : Prop :=
  ∀ (e : HostEvent) (s : State), s.legal = true → (hostEvent e s).legal = true

/-! ## Time and the host -/

/-- The costs of 70_reset_and_hazards.md R321 and Table R322 by operand form: read-only instructions pay the page-cross
cycle, stores and read-modify-write instructions do not. -/
def Obligations.CostsByOperandForm : Prop :=
  ∀ (s : State) (z : Byte) (base : Addr),
    readCost s (.imm z) = 2 ∧ readCost s (.mem (.zp z)) = 3 ∧ readCost s (.mem (.zpx z)) = 4 ∧
    readCost s (.mem (.zpy z)) = 4 ∧ readCost s (.mem (.abs base)) = 4 ∧ readCost s (.mem (.indx z)) = 6 ∧
    readCost s (.mem (.absx base)) = (if base.toNat % 256 + s.x.toNat < 256 then 4 else 5) ∧
    readCost s (.mem (.absy base)) = (if base.toNat % 256 + s.y.toNat < 256 then 4 else 5) ∧
    readCost s (.mem (.indy z)) = (if (Memory.read s.mem z.toNat).toNat + s.y.toNat < 256 then 5 else 6) ∧
    storeCost (.zp z) = 3 ∧ storeCost (.zpx z) = 4 ∧ storeCost (.zpy z) = 4 ∧ storeCost (.abs base) = 4 ∧
    storeCost (.absx base) = 5 ∧ storeCost (.absy base) = 5 ∧ storeCost (.indx z) = 6 ∧ storeCost (.indy z) = 6 ∧
    rmwCost (.zp z) = 5 ∧ rmwCost (.zpx z) = 6 ∧ rmwCost (.abs base) = 6 ∧ rmwCost (.absx base) = 7

/-- The one-cycle view and the instruction-level view agree (70_reset_and_hazards.md R320; D20): from a boundary with no
reset request, a step is exactly the CPU cycles it costs, at least one, and `cycles` grows by their number. -/
def Obligations.StepIsItsCpuCycles : Prop :=
  ∀ s t : State, s.skip = 0 → s.resetReq = false → step s = .next t →
    ∃ n : Nat, 1 ≤ n ∧ t.cycles = s.cycles + n ∧ t.skip = 0 ∧ cpuCycles n s = .next t

/-- The clock ratio (60_exceptions.md R260; 95_test_vectors.md S5): a frame always steps the PPU three times and the APU
once per CPU cycle, whatever the program and the platform do. What one `runCycle` is: a reset the host has asked for (log
entry 33), three PPU cycles, one CPU cycle, and the APU cycle, in which the sample channel may read one byte (R263; log entry
34) and the IRQ level is set. -/
def Obligations.FrameKeepsClockRatio : Prop :=
  (∀ (inputs : Vector CycleInput Config.cyclesPerFrame.val) (c : Console), c.cpu.cart.isSome = true →
    ∃ d : Console, runFrame inputs c = .next d ∧
      d.ppuCycles = c.ppuCycles + 3 * Config.cyclesPerFrame.val ∧
      d.apuCycles = c.apuCycles + Config.cyclesPerFrame.val) ∧
  ∀ (inp : CycleInput) (c : Console), c.cpu.cart.isSome = true →
    let s := if c.cpu.resetReq = true then doReset c.cpu else c.cpu
    ∃ t : State, cpuCycle (((s.ppuCycle inp.hits[0]).ppuCycle inp.hits[1]).ppuCycle inp.hits[2]) = .next t ∧
      (inp.sample = none → runCycle inp c = .next
        { cpu := { t with irqLine := inp.irq }, ppuCycles := c.ppuCycles + 3, apuCycles := c.apuCycles + 1 }) ∧
      ∀ a : Addr, inp.sample = some a → runCycle inp c = .next
        { cpu := { afterRead t a with irqLine := inp.irq }, ppuCycles := c.ppuCycles + 3, apuCycles := c.apuCycles + 1 }

/-- Backup, any number of `runCycle` calls, restore (70_reset_and_hazards.md R331; 95_test_vectors.md S6): the console is
the one before. -/
def Obligations.RestoreUndoesRunCycles : Prop :=
  ∀ (e : Emulator) (inputs : List CycleInput) (d : Console), e.now.cpu.cart.isSome = true →
    runCycles inputs e.backup.now = .next d → ({ e.backup with now := d } : Emulator).restore.now = e.now

/-- Serialization (70_reset_and_hazards.md R331; 95_test_vectors.md S7): deserializing a serialized console replaces any
other by it, so the next frame is the same; a missing field leaves the live value unchanged, shown for the core's fields
and for the whole. The list of fields is the model's (log entry 29). -/
def Obligations.DeserializeReplacesMachine : Prop :=
  (∀ m live : Console, live.deserialize m.serialize = m) ∧
  (∀ (m live : Console) (inputs : Vector CycleInput Config.cyclesPerFrame.val),
    runFrame inputs (live.deserialize m.serialize) = runFrame inputs m) ∧
  ∀ (f : Saved) (live : Console),
    (f.a = none → (live.deserialize f).cpu.a = live.cpu.a) ∧ (f.x = none → (live.deserialize f).cpu.x = live.cpu.x) ∧
    (f.y = none → (live.deserialize f).cpu.y = live.cpu.y) ∧ (f.sp = none → (live.deserialize f).cpu.sp = live.cpu.sp) ∧
    (f.pc = none → (live.deserialize f).cpu.pc = live.cpu.pc) ∧
    (f.c = none → (live.deserialize f).cpu.flags.c = live.cpu.flags.c) ∧
    (f.z = none → (live.deserialize f).cpu.flags.z = live.cpu.flags.z) ∧
    (f.i = none → (live.deserialize f).cpu.flags.i = live.cpu.flags.i) ∧
    (f.d = none → (live.deserialize f).cpu.flags.d = live.cpu.flags.d) ∧
    (f.v = none → (live.deserialize f).cpu.flags.v = live.cpu.flags.v) ∧
    (f.n = none → (live.deserialize f).cpu.flags.n = live.cpu.flags.n) ∧
    (f.nmiPending = none → (live.deserialize f).cpu.nmiPending = live.cpu.nmiPending) ∧
    (f.cycles = none → (live.deserialize f).cpu.cycles = live.cpu.cycles) ∧
    (f.skip = none → (live.deserialize f).cpu.skip = live.cpu.skip) ∧
    (f.mem = none → (live.deserialize f).cpu.mem = live.cpu.mem) ∧
    (f.cart = none → (live.deserialize f).cpu.cart = live.cpu.cart) ∧
    (f.ppu = none → (live.deserialize f).cpu.ppu = live.cpu.ppu) ∧
    (f.picture = none → (live.deserialize f).cpu.picture = live.cpu.picture) ∧
    (f.pads = none → (live.deserialize f).cpu.pads = live.cpu.pads)

/-- `loadCartridge` (20_memory.md R70, R71, R75; 70_reset_and_hazards.md R330). A failed load (bad magic, or a mapper id
above 3) leaves the machine as it was; an image with the magic, an id up to 3 and all the data its header announces loads. A
loaded cartridge has what the header says: bytes 4 and 5 the bank counts, byte 6 the extended RAM and the mirroring mode,
bytes 6 and 7 the mapper, 0 the fixed-bank, 1 the shift-register, 2 the switchable-program, 3 the switchable-graphics one,
with the registers of log entry 15; and it holds the program and the graphics data that follow the header. So a fixed-bank
image of two banks shows byte `k` of its program data at `0x8000 + k`, one of one bank shows it at `0x8000 + k` and at
`0xC000 + k`, and one with graphics data shows byte `k` of the first bank of it at graphics address `k`. -/
def Obligations.LoadCartridgeInstallsImageOrNothing : Prop :=
  ∀ (image : List Byte) (s : State),
    let id := ((image.getD 7 0 &&& 0xF0) ||| (image.getD 6 0 >>> 4)).toNat
    (image.take 4 ≠ [0x4E, 0x45, 0x53, 0x1A] ∨ 3 < id → hostEvent (.loadCartridge image) s = s) ∧
    (image.take 4 = [0x4E, 0x45, 0x53, 0x1A] → id ≤ 3 →
      16 + 16384 * (image.getD 4 0).toNat + 8192 * (image.getD 5 0).toNat ≤ image.length →
      ∃ c : Cartridge, Cartridge.ofImage image = some c) ∧
    ∀ c : Cartridge, Cartridge.ofImage image = some c →
      (hostEvent (.loadCartridge image) s).cart = some c ∧
      c.prgBanks = image.getD 4 0 ∧ c.chrBanks = image.getD 5 0 ∧ c.extRam = (image.getD 6 0).getLsbD 1 ∧
      c.mirroring = (if (image.getD 6 0).getLsbD 3 then .fourScreen
        else if (image.getD 6 0).getLsbD 0 then .vertical else .horizontal) ∧
      (id = 0 → c.mapper = .fixed) ∧
      (id = 1 → c.mapper =
        .shiftReg { shift := [], regs := Config.insertedRegs, fixedLast := Config.insertedFixedLast }) ∧
      (id = 2 → c.mapper = .switchPrg Config.insertedBank) ∧ (id = 3 → c.mapper = .switchChr Config.insertedChrBank) ∧
      (∀ k : Nat, k < 16384 * c.prgBanks.toNat → Memory.read c.prg k = image.getD (16 + k) 0) ∧
      (∀ k : Nat, k < 8192 * c.chrBanks.toNat →
        Memory.read c.chr k = image.getD (16 + 16384 * c.prgBanks.toNat + k) 0) ∧
      (∀ k : Nat, c.mapper = .fixed → c.prgBanks = 2 → k < 0x8000 →
        peek (hostEvent (.loadCartridge image) s) (BitVec.ofNat 16 (0x8000 + k)) = image.getD (16 + k) 0) ∧
      (∀ k : Nat, c.mapper = .fixed → c.prgBanks = 1 → k < 0x4000 →
        peek (hostEvent (.loadCartridge image) s) (BitVec.ofNat 16 (0x8000 + k)) = image.getD (16 + k) 0 ∧
        peek (hostEvent (.loadCartridge image) s) (BitVec.ofNat 16 (0xC000 + k)) = image.getD (16 + k) 0) ∧
      ∀ k : Nat, c.mapper = .fixed → 1 ≤ c.chrBanks.toNat → k < 0x2000 →
        (hostEvent (.loadCartridge image) s).readGraphics (BitVec.ofNat 16 k) =
          image.getD (16 + 16384 * c.prgBanks.toNat + k) 0
end

