-- ==== Sys2Proof/Laws/Memory.lean ====
section
/-! SUPPORT. The laws of storage in canonical form: a read after a write, and that a write keeps the form. -/

namespace Sys2Proof.Machine

theorem Memory.read_cons_same (a : Nat) (v : Byte) (m : Memory) (h : Memory.read m a = Memory.unlisted) :
    Memory.read (Memory.cons a v m) a = v := by
  unfold Memory.cons
  split
  · rw [h]; exact (‹v = Memory.unlisted›).symm
  · simp [Memory.read]

theorem Memory.read_cons_other (a b : Nat) (v : Byte) (m : Memory) (h : a ≠ b) :
    Memory.read (Memory.cons a v m) b = Memory.read m b := by
  unfold Memory.cons
  split
  · rfl
  · simp [Memory.read, h]

/-- Below the least listed address nothing is listed. -/
theorem Memory.read_of_wfAbove {lo : Nat} {m : Memory} (h : Memory.wfAbove (some lo) m = true) (a : Nat) (ha : a ≤ lo) :
    Memory.read m a = Memory.unlisted := by
  induction m generalizing lo with
  | nil => rfl
  | cons c m ih =>
    obtain ⟨k, w⟩ := c
    simp only [Memory.wfAbove, Option.all_some, Bool.and_eq_true, decide_eq_true_eq] at h
    have hk : k ≠ a := by omega
    simp only [Memory.read, hk, if_false]
    exact ih h.2 (by omega)

theorem Memory.wfAbove_weaken {lo : Option Nat} {k : Nat} {m : Memory} (h : Memory.wfAbove (some k) m = true)
    (hlo : lo.all (· ≤ k) = true) : Memory.wfAbove lo m = true := by
  cases m with
  | nil => rfl
  | cons c m =>
    obtain ⟨j, w⟩ := c
    simp only [Memory.wfAbove, Option.all_some, Bool.and_eq_true, decide_eq_true_eq] at h ⊢
    refine ⟨⟨?_, h.1.2⟩, h.2⟩
    cases lo with
    | none => rfl
    | some l => simp at hlo ⊢; omega

theorem Memory.wfAbove_cons {lo : Option Nat} {a : Nat} {v : Byte} {m : Memory} (hm : Memory.wfAbove (some a) m = true)
    (hlo : lo.all (· < a) = true) : Memory.wfAbove lo (Memory.cons a v m) = true := by
  unfold Memory.cons
  split
  · refine Memory.wfAbove_weaken hm ?_
    cases lo with
    | none => rfl
    | some l => simp at hlo ⊢; omega
  · rename_i hv
    simp [Memory.wfAbove, hlo, hm, hv]

theorem Memory.wfAbove_write {lo : Option Nat} {m : Memory} (a : Nat) (v : Byte) (hm : Memory.wfAbove lo m = true)
    (hlo : lo.all (· < a) = true) : Memory.wfAbove lo (Memory.write m a v) = true := by
  induction m generalizing lo with
  | nil => exact Memory.wfAbove_cons rfl hlo
  | cons c m ih =>
    obtain ⟨k, w⟩ := c
    simp only [Memory.wfAbove, Bool.and_eq_true] at hm
    unfold Memory.write
    split
    · refine Memory.wfAbove_cons ?_ hlo
      simp [Memory.wfAbove, *] at hm ⊢
    · split
      · subst_vars
        exact Memory.wfAbove_cons hm.2 hlo
      · simp only [Memory.wfAbove, Bool.and_eq_true]
        refine ⟨hm.1, ih hm.2 ?_⟩
        simp; omega

/-- A write keeps the canonical form. -/
theorem Memory.wf_write {m : Memory} (a : Nat) (v : Byte) (h : Memory.wf m = true) :
    Memory.wf (Memory.write m a v) = true := Memory.wfAbove_write a v h rfl

theorem Memory.read_write_same_above {lo : Option Nat} {m : Memory} (a : Nat) (v : Byte)
    (h : Memory.wfAbove lo m = true) : Memory.read (Memory.write m a v) a = v := by
  induction m generalizing lo with
  | nil => exact Memory.read_cons_same a v [] rfl
  | cons c m ih =>
    obtain ⟨k, w⟩ := c
    simp only [Memory.wfAbove, Bool.and_eq_true] at h
    unfold Memory.write
    split
    · refine Memory.read_cons_same a v _ ?_
      have hk : k ≠ a := by omega
      simp only [Memory.read, hk, if_false]
      exact Memory.read_of_wfAbove h.2 a (by omega)
    · split
      · subst_vars
        exact Memory.read_cons_same _ v _ (Memory.read_of_wfAbove h.2 _ (Nat.le_refl _))
      · have hk : k ≠ a := fun e => ‹¬a = k› e.symm
        simp only [Memory.read, hk, if_false]
        exact ih h.2

/-- A read after a write to the same address gives the byte written. -/
theorem Memory.read_write_same {m : Memory} (a : Nat) (v : Byte) (h : Memory.wf m = true) :
    Memory.read (Memory.write m a v) a = v := Memory.read_write_same_above a v h

/-- A write leaves every other address alone. -/
theorem Memory.read_write_other (m : Memory) (a b : Nat) (v : Byte) (h : a ≠ b) :
    Memory.read (Memory.write m a v) b = Memory.read m b := by
  induction m with
  | nil => exact Memory.read_cons_other a b v [] h
  | cons c m ih =>
    obtain ⟨k, w⟩ := c
    unfold Memory.write
    split
    · exact Memory.read_cons_other a b v _ h
    · split
      · rename_i hk
        subst hk
        rw [Memory.read_cons_other _ _ _ _ h]
        simp [Memory.read, h]
      · simp only [Memory.read]
        split
        · rfl
        · exact ih

/-- The addresses a write can add. -/
theorem Memory.all_write (p : Nat → Bool) (m : Memory) (a : Nat) (v : Byte) (hm : m.all (fun c => p c.1) = true)
    (ha : p a = true) : (Memory.write m a v).all (fun c => p c.1) = true := by
  have hcons : ∀ m' : Memory, m'.all (fun c => p c.1) = true → (Memory.cons a v m').all (fun c => p c.1) = true := by
    intro m' h'
    unfold Memory.cons
    split
    · exact h'
    · simp only [List.all_cons, Bool.and_eq_true]; exact ⟨ha, h'⟩
  induction m with
  | nil => exact hcons [] rfl
  | cons c m ih =>
    obtain ⟨k, w⟩ := c
    simp only [List.all_cons, Bool.and_eq_true] at hm
    unfold Memory.write
    split
    · exact hcons _ (by simp only [List.all_cons, Bool.and_eq_true]; exact hm)
    · split
      · exact hcons _ hm.2
      · simp only [List.all_cons, Bool.and_eq_true]
        exact ⟨hm.1, ih hm.2⟩

end Sys2Proof.Machine
end

