-- ==== Sys2Proof/Laws/State.lean ====
section
/-! SUPPORT. One lemma per field per update of the state, each true by rfl, so that no proof unfolds an update. -/

namespace Sys2Proof.Machine

@[simp] theorem setA_a (v : Byte) (s : State) : (s.setA v).a = v := rfl
@[simp] theorem setA_x (v : Byte) (s : State) : (s.setA v).x = s.x := rfl
@[simp] theorem setA_y (v : Byte) (s : State) : (s.setA v).y = s.y := rfl
@[simp] theorem setA_sp (v : Byte) (s : State) : (s.setA v).sp = s.sp := rfl
@[simp] theorem setA_pc (v : Byte) (s : State) : (s.setA v).pc = s.pc := rfl
@[simp] theorem setA_flags (v : Byte) (s : State) : (s.setA v).flags = s.flags := rfl
@[simp] theorem setA_nmiPending (v : Byte) (s : State) : (s.setA v).nmiPending = s.nmiPending := rfl
@[simp] theorem setA_irqLine (v : Byte) (s : State) : (s.setA v).irqLine = s.irqLine := rfl
@[simp] theorem setA_resetReq (v : Byte) (s : State) : (s.setA v).resetReq = s.resetReq := rfl
@[simp] theorem setA_cycles (v : Byte) (s : State) : (s.setA v).cycles = s.cycles := rfl
@[simp] theorem setA_skip (v : Byte) (s : State) : (s.setA v).skip = s.skip := rfl
@[simp] theorem setA_mem (v : Byte) (s : State) : (s.setA v).mem = s.mem := rfl
@[simp] theorem setA_cart (v : Byte) (s : State) : (s.setA v).cart = s.cart := rfl
@[simp] theorem setA_io (v : Byte) (s : State) : (s.setA v).io = s.io := rfl
@[simp] theorem setA_ppu (v : Byte) (s : State) : (s.setA v).ppu = s.ppu := rfl
@[simp] theorem setA_picture (v : Byte) (s : State) : (s.setA v).picture = s.picture := rfl
@[simp] theorem setA_pads (v : Byte) (s : State) : (s.setA v).pads = s.pads := rfl

@[simp] theorem setX_a (v : Byte) (s : State) : (s.setX v).a = s.a := rfl
@[simp] theorem setX_x (v : Byte) (s : State) : (s.setX v).x = v := rfl
@[simp] theorem setX_y (v : Byte) (s : State) : (s.setX v).y = s.y := rfl
@[simp] theorem setX_sp (v : Byte) (s : State) : (s.setX v).sp = s.sp := rfl
@[simp] theorem setX_pc (v : Byte) (s : State) : (s.setX v).pc = s.pc := rfl
@[simp] theorem setX_flags (v : Byte) (s : State) : (s.setX v).flags = s.flags := rfl
@[simp] theorem setX_nmiPending (v : Byte) (s : State) : (s.setX v).nmiPending = s.nmiPending := rfl
@[simp] theorem setX_irqLine (v : Byte) (s : State) : (s.setX v).irqLine = s.irqLine := rfl
@[simp] theorem setX_resetReq (v : Byte) (s : State) : (s.setX v).resetReq = s.resetReq := rfl
@[simp] theorem setX_cycles (v : Byte) (s : State) : (s.setX v).cycles = s.cycles := rfl
@[simp] theorem setX_skip (v : Byte) (s : State) : (s.setX v).skip = s.skip := rfl
@[simp] theorem setX_mem (v : Byte) (s : State) : (s.setX v).mem = s.mem := rfl
@[simp] theorem setX_cart (v : Byte) (s : State) : (s.setX v).cart = s.cart := rfl
@[simp] theorem setX_io (v : Byte) (s : State) : (s.setX v).io = s.io := rfl
@[simp] theorem setX_ppu (v : Byte) (s : State) : (s.setX v).ppu = s.ppu := rfl
@[simp] theorem setX_picture (v : Byte) (s : State) : (s.setX v).picture = s.picture := rfl
@[simp] theorem setX_pads (v : Byte) (s : State) : (s.setX v).pads = s.pads := rfl

@[simp] theorem setY_a (v : Byte) (s : State) : (s.setY v).a = s.a := rfl
@[simp] theorem setY_x (v : Byte) (s : State) : (s.setY v).x = s.x := rfl
@[simp] theorem setY_y (v : Byte) (s : State) : (s.setY v).y = v := rfl
@[simp] theorem setY_sp (v : Byte) (s : State) : (s.setY v).sp = s.sp := rfl
@[simp] theorem setY_pc (v : Byte) (s : State) : (s.setY v).pc = s.pc := rfl
@[simp] theorem setY_flags (v : Byte) (s : State) : (s.setY v).flags = s.flags := rfl
@[simp] theorem setY_nmiPending (v : Byte) (s : State) : (s.setY v).nmiPending = s.nmiPending := rfl
@[simp] theorem setY_irqLine (v : Byte) (s : State) : (s.setY v).irqLine = s.irqLine := rfl
@[simp] theorem setY_resetReq (v : Byte) (s : State) : (s.setY v).resetReq = s.resetReq := rfl
@[simp] theorem setY_cycles (v : Byte) (s : State) : (s.setY v).cycles = s.cycles := rfl
@[simp] theorem setY_skip (v : Byte) (s : State) : (s.setY v).skip = s.skip := rfl
@[simp] theorem setY_mem (v : Byte) (s : State) : (s.setY v).mem = s.mem := rfl
@[simp] theorem setY_cart (v : Byte) (s : State) : (s.setY v).cart = s.cart := rfl
@[simp] theorem setY_io (v : Byte) (s : State) : (s.setY v).io = s.io := rfl
@[simp] theorem setY_ppu (v : Byte) (s : State) : (s.setY v).ppu = s.ppu := rfl
@[simp] theorem setY_picture (v : Byte) (s : State) : (s.setY v).picture = s.picture := rfl
@[simp] theorem setY_pads (v : Byte) (s : State) : (s.setY v).pads = s.pads := rfl

@[simp] theorem setSp_a (v : Byte) (s : State) : (s.setSp v).a = s.a := rfl
@[simp] theorem setSp_x (v : Byte) (s : State) : (s.setSp v).x = s.x := rfl
@[simp] theorem setSp_y (v : Byte) (s : State) : (s.setSp v).y = s.y := rfl
@[simp] theorem setSp_sp (v : Byte) (s : State) : (s.setSp v).sp = v := rfl
@[simp] theorem setSp_pc (v : Byte) (s : State) : (s.setSp v).pc = s.pc := rfl
@[simp] theorem setSp_flags (v : Byte) (s : State) : (s.setSp v).flags = s.flags := rfl
@[simp] theorem setSp_nmiPending (v : Byte) (s : State) : (s.setSp v).nmiPending = s.nmiPending := rfl
@[simp] theorem setSp_irqLine (v : Byte) (s : State) : (s.setSp v).irqLine = s.irqLine := rfl
@[simp] theorem setSp_resetReq (v : Byte) (s : State) : (s.setSp v).resetReq = s.resetReq := rfl
@[simp] theorem setSp_cycles (v : Byte) (s : State) : (s.setSp v).cycles = s.cycles := rfl
@[simp] theorem setSp_skip (v : Byte) (s : State) : (s.setSp v).skip = s.skip := rfl
@[simp] theorem setSp_mem (v : Byte) (s : State) : (s.setSp v).mem = s.mem := rfl
@[simp] theorem setSp_cart (v : Byte) (s : State) : (s.setSp v).cart = s.cart := rfl
@[simp] theorem setSp_io (v : Byte) (s : State) : (s.setSp v).io = s.io := rfl
@[simp] theorem setSp_ppu (v : Byte) (s : State) : (s.setSp v).ppu = s.ppu := rfl
@[simp] theorem setSp_picture (v : Byte) (s : State) : (s.setSp v).picture = s.picture := rfl
@[simp] theorem setSp_pads (v : Byte) (s : State) : (s.setSp v).pads = s.pads := rfl

@[simp] theorem setPc_a (v : Addr) (s : State) : (s.setPc v).a = s.a := rfl
@[simp] theorem setPc_x (v : Addr) (s : State) : (s.setPc v).x = s.x := rfl
@[simp] theorem setPc_y (v : Addr) (s : State) : (s.setPc v).y = s.y := rfl
@[simp] theorem setPc_sp (v : Addr) (s : State) : (s.setPc v).sp = s.sp := rfl
@[simp] theorem setPc_pc (v : Addr) (s : State) : (s.setPc v).pc = v := rfl
@[simp] theorem setPc_flags (v : Addr) (s : State) : (s.setPc v).flags = s.flags := rfl
@[simp] theorem setPc_nmiPending (v : Addr) (s : State) : (s.setPc v).nmiPending = s.nmiPending := rfl
@[simp] theorem setPc_irqLine (v : Addr) (s : State) : (s.setPc v).irqLine = s.irqLine := rfl
@[simp] theorem setPc_resetReq (v : Addr) (s : State) : (s.setPc v).resetReq = s.resetReq := rfl
@[simp] theorem setPc_cycles (v : Addr) (s : State) : (s.setPc v).cycles = s.cycles := rfl
@[simp] theorem setPc_skip (v : Addr) (s : State) : (s.setPc v).skip = s.skip := rfl
@[simp] theorem setPc_mem (v : Addr) (s : State) : (s.setPc v).mem = s.mem := rfl
@[simp] theorem setPc_cart (v : Addr) (s : State) : (s.setPc v).cart = s.cart := rfl
@[simp] theorem setPc_io (v : Addr) (s : State) : (s.setPc v).io = s.io := rfl
@[simp] theorem setPc_ppu (v : Addr) (s : State) : (s.setPc v).ppu = s.ppu := rfl
@[simp] theorem setPc_picture (v : Addr) (s : State) : (s.setPc v).picture = s.picture := rfl
@[simp] theorem setPc_pads (v : Addr) (s : State) : (s.setPc v).pads = s.pads := rfl

@[simp] theorem setFlags_a (f : Flags) (s : State) : (s.setFlags f).a = s.a := rfl
@[simp] theorem setFlags_x (f : Flags) (s : State) : (s.setFlags f).x = s.x := rfl
@[simp] theorem setFlags_y (f : Flags) (s : State) : (s.setFlags f).y = s.y := rfl
@[simp] theorem setFlags_sp (f : Flags) (s : State) : (s.setFlags f).sp = s.sp := rfl
@[simp] theorem setFlags_pc (f : Flags) (s : State) : (s.setFlags f).pc = s.pc := rfl
@[simp] theorem setFlags_flags (f : Flags) (s : State) : (s.setFlags f).flags = f := rfl
@[simp] theorem setFlags_nmiPending (f : Flags) (s : State) : (s.setFlags f).nmiPending = s.nmiPending := rfl
@[simp] theorem setFlags_irqLine (f : Flags) (s : State) : (s.setFlags f).irqLine = s.irqLine := rfl
@[simp] theorem setFlags_resetReq (f : Flags) (s : State) : (s.setFlags f).resetReq = s.resetReq := rfl
@[simp] theorem setFlags_cycles (f : Flags) (s : State) : (s.setFlags f).cycles = s.cycles := rfl
@[simp] theorem setFlags_skip (f : Flags) (s : State) : (s.setFlags f).skip = s.skip := rfl
@[simp] theorem setFlags_mem (f : Flags) (s : State) : (s.setFlags f).mem = s.mem := rfl
@[simp] theorem setFlags_cart (f : Flags) (s : State) : (s.setFlags f).cart = s.cart := rfl
@[simp] theorem setFlags_io (f : Flags) (s : State) : (s.setFlags f).io = s.io := rfl
@[simp] theorem setFlags_ppu (f : Flags) (s : State) : (s.setFlags f).ppu = s.ppu := rfl
@[simp] theorem setFlags_picture (f : Flags) (s : State) : (s.setFlags f).picture = s.picture := rfl
@[simp] theorem setFlags_pads (f : Flags) (s : State) : (s.setFlags f).pads = s.pads := rfl

@[simp] theorem setZN_a (v : Byte) (s : State) : (s.setZN v).a = s.a := rfl
@[simp] theorem setZN_x (v : Byte) (s : State) : (s.setZN v).x = s.x := rfl
@[simp] theorem setZN_y (v : Byte) (s : State) : (s.setZN v).y = s.y := rfl
@[simp] theorem setZN_sp (v : Byte) (s : State) : (s.setZN v).sp = s.sp := rfl
@[simp] theorem setZN_pc (v : Byte) (s : State) : (s.setZN v).pc = s.pc := rfl
@[simp] theorem setZN_flags (v : Byte) (s : State) : (s.setZN v).flags = s.flags.setZN v := rfl
@[simp] theorem setZN_nmiPending (v : Byte) (s : State) : (s.setZN v).nmiPending = s.nmiPending := rfl
@[simp] theorem setZN_irqLine (v : Byte) (s : State) : (s.setZN v).irqLine = s.irqLine := rfl
@[simp] theorem setZN_resetReq (v : Byte) (s : State) : (s.setZN v).resetReq = s.resetReq := rfl
@[simp] theorem setZN_cycles (v : Byte) (s : State) : (s.setZN v).cycles = s.cycles := rfl
@[simp] theorem setZN_skip (v : Byte) (s : State) : (s.setZN v).skip = s.skip := rfl
@[simp] theorem setZN_mem (v : Byte) (s : State) : (s.setZN v).mem = s.mem := rfl
@[simp] theorem setZN_cart (v : Byte) (s : State) : (s.setZN v).cart = s.cart := rfl
@[simp] theorem setZN_io (v : Byte) (s : State) : (s.setZN v).io = s.io := rfl
@[simp] theorem setZN_ppu (v : Byte) (s : State) : (s.setZN v).ppu = s.ppu := rfl
@[simp] theorem setZN_picture (v : Byte) (s : State) : (s.setZN v).picture = s.picture := rfl
@[simp] theorem setZN_pads (v : Byte) (s : State) : (s.setZN v).pads = s.pads := rfl

@[simp] theorem charge_a (n : Nat) (s : State) : (s.charge n).a = s.a := rfl
@[simp] theorem charge_x (n : Nat) (s : State) : (s.charge n).x = s.x := rfl
@[simp] theorem charge_y (n : Nat) (s : State) : (s.charge n).y = s.y := rfl
@[simp] theorem charge_sp (n : Nat) (s : State) : (s.charge n).sp = s.sp := rfl
@[simp] theorem charge_pc (n : Nat) (s : State) : (s.charge n).pc = s.pc := rfl
@[simp] theorem charge_flags (n : Nat) (s : State) : (s.charge n).flags = s.flags := rfl
@[simp] theorem charge_nmiPending (n : Nat) (s : State) : (s.charge n).nmiPending = s.nmiPending := rfl
@[simp] theorem charge_irqLine (n : Nat) (s : State) : (s.charge n).irqLine = s.irqLine := rfl
@[simp] theorem charge_resetReq (n : Nat) (s : State) : (s.charge n).resetReq = s.resetReq := rfl
@[simp] theorem charge_cycles (n : Nat) (s : State) : (s.charge n).cycles = s.cycles := rfl
@[simp] theorem charge_skip (n : Nat) (s : State) : (s.charge n).skip = s.skip + n := rfl
@[simp] theorem charge_mem (n : Nat) (s : State) : (s.charge n).mem = s.mem := rfl
@[simp] theorem charge_cart (n : Nat) (s : State) : (s.charge n).cart = s.cart := rfl
@[simp] theorem charge_io (n : Nat) (s : State) : (s.charge n).io = s.io := rfl
@[simp] theorem charge_ppu (n : Nat) (s : State) : (s.charge n).ppu = s.ppu := rfl
@[simp] theorem charge_picture (n : Nat) (s : State) : (s.charge n).picture = s.picture := rfl
@[simp] theorem charge_pads (n : Nat) (s : State) : (s.charge n).pads = s.pads := rfl

@[simp] theorem emit_a (e : IoEvent) (s : State) : (s.emit e).a = s.a := rfl
@[simp] theorem emit_x (e : IoEvent) (s : State) : (s.emit e).x = s.x := rfl
@[simp] theorem emit_y (e : IoEvent) (s : State) : (s.emit e).y = s.y := rfl
@[simp] theorem emit_sp (e : IoEvent) (s : State) : (s.emit e).sp = s.sp := rfl
@[simp] theorem emit_pc (e : IoEvent) (s : State) : (s.emit e).pc = s.pc := rfl
@[simp] theorem emit_flags (e : IoEvent) (s : State) : (s.emit e).flags = s.flags := rfl
@[simp] theorem emit_nmiPending (e : IoEvent) (s : State) : (s.emit e).nmiPending = s.nmiPending := rfl
@[simp] theorem emit_irqLine (e : IoEvent) (s : State) : (s.emit e).irqLine = s.irqLine := rfl
@[simp] theorem emit_resetReq (e : IoEvent) (s : State) : (s.emit e).resetReq = s.resetReq := rfl
@[simp] theorem emit_cycles (e : IoEvent) (s : State) : (s.emit e).cycles = s.cycles := rfl
@[simp] theorem emit_skip (e : IoEvent) (s : State) : (s.emit e).skip = s.skip := rfl
@[simp] theorem emit_mem (e : IoEvent) (s : State) : (s.emit e).mem = s.mem := rfl
@[simp] theorem emit_cart (e : IoEvent) (s : State) : (s.emit e).cart = s.cart := rfl
@[simp] theorem emit_io (e : IoEvent) (s : State) : (s.emit e).io = e :: s.io := rfl
@[simp] theorem emit_ppu (e : IoEvent) (s : State) : (s.emit e).ppu = s.ppu.sees s.io e := rfl
@[simp] theorem emit_picture (e : IoEvent) (s : State) : (s.emit e).picture = s.picture := rfl
@[simp] theorem emit_pads (e : IoEvent) (s : State) : (s.emit e).pads = s.pads := rfl

@[simp] theorem writeDevice_a (r : Addr) (v : Byte) (s : State) : (s.writeDevice r v).a = s.a := rfl
@[simp] theorem writeDevice_x (r : Addr) (v : Byte) (s : State) : (s.writeDevice r v).x = s.x := rfl
@[simp] theorem writeDevice_y (r : Addr) (v : Byte) (s : State) : (s.writeDevice r v).y = s.y := rfl
@[simp] theorem writeDevice_sp (r : Addr) (v : Byte) (s : State) : (s.writeDevice r v).sp = s.sp := rfl
@[simp] theorem writeDevice_pc (r : Addr) (v : Byte) (s : State) : (s.writeDevice r v).pc = s.pc := rfl
@[simp] theorem writeDevice_flags (r : Addr) (v : Byte) (s : State) : (s.writeDevice r v).flags = s.flags := rfl
@[simp] theorem writeDevice_nmiPending (r : Addr) (v : Byte) (s : State) : (s.writeDevice r v).nmiPending = s.nmiPending := rfl
@[simp] theorem writeDevice_irqLine (r : Addr) (v : Byte) (s : State) : (s.writeDevice r v).irqLine = s.irqLine := rfl
@[simp] theorem writeDevice_resetReq (r : Addr) (v : Byte) (s : State) : (s.writeDevice r v).resetReq = s.resetReq := rfl
@[simp] theorem writeDevice_cycles (r : Addr) (v : Byte) (s : State) : (s.writeDevice r v).cycles = s.cycles := rfl
@[simp] theorem writeDevice_skip (r : Addr) (v : Byte) (s : State) : (s.writeDevice r v).skip = s.skip := rfl
@[simp] theorem writeDevice_mem (r : Addr) (v : Byte) (s : State) : (s.writeDevice r v).mem = s.mem := rfl
@[simp] theorem writeDevice_cart (r : Addr) (v : Byte) (s : State) : (s.writeDevice r v).cart = s.cart := rfl
@[simp] theorem writeDevice_io (r : Addr) (v : Byte) (s : State) : (s.writeDevice r v).io = .write r v :: s.io := rfl
@[simp] theorem writeDevice_ppu (r : Addr) (v : Byte) (s : State) :
    (s.writeDevice r v).ppu = s.ppu.sees s.io (.write r v) := rfl
@[simp] theorem writeDevice_picture (r : Addr) (v : Byte) (s : State) :
    (s.writeDevice r v).picture = if r = 0x2007 then s.writePicture (Config.pictureAddress s.io) v else s.picture := rfl
@[simp] theorem writeDevice_pads (r : Addr) (v : Byte) (s : State) :
    (s.writeDevice r v).pads = if r = 0x4016 then s.pads.strobe v else s.pads := rfl

@[simp] theorem settle_a (s : State) : (s.settle).a = s.a := rfl
@[simp] theorem settle_x (s : State) : (s.settle).x = s.x := rfl
@[simp] theorem settle_y (s : State) : (s.settle).y = s.y := rfl
@[simp] theorem settle_sp (s : State) : (s.settle).sp = s.sp := rfl
@[simp] theorem settle_pc (s : State) : (s.settle).pc = s.pc := rfl
@[simp] theorem settle_flags (s : State) : (s.settle).flags = s.flags := rfl
@[simp] theorem settle_nmiPending (s : State) : (s.settle).nmiPending = s.nmiPending := rfl
@[simp] theorem settle_irqLine (s : State) : (s.settle).irqLine = s.irqLine := rfl
@[simp] theorem settle_resetReq (s : State) : (s.settle).resetReq = s.resetReq := rfl
@[simp] theorem settle_cycles (s : State) : (s.settle).cycles = s.cycles + s.skip := rfl
@[simp] theorem settle_skip (s : State) : (s.settle).skip = 0 := rfl
@[simp] theorem settle_mem (s : State) : (s.settle).mem = s.mem := rfl
@[simp] theorem settle_cart (s : State) : (s.settle).cart = s.cart := rfl
@[simp] theorem settle_io (s : State) : (s.settle).io = s.io := rfl
@[simp] theorem settle_ppu (s : State) : (s.settle).ppu = s.ppu := rfl
@[simp] theorem settle_picture (s : State) : (s.settle).picture = s.picture := rfl
@[simp] theorem settle_pads (s : State) : (s.settle).pads = s.pads := rfl

@[simp] theorem pulled_a (s : State) : (pulled s).a = s.a := rfl
@[simp] theorem pulled_x (s : State) : (pulled s).x = s.x := rfl
@[simp] theorem pulled_y (s : State) : (pulled s).y = s.y := rfl
@[simp] theorem pulled_sp (s : State) : (pulled s).sp = s.sp + 1 := rfl
@[simp] theorem pulled_pc (s : State) : (pulled s).pc = s.pc := rfl
@[simp] theorem pulled_flags (s : State) : (pulled s).flags = s.flags := rfl
@[simp] theorem pulled_nmiPending (s : State) : (pulled s).nmiPending = s.nmiPending := rfl
@[simp] theorem pulled_irqLine (s : State) : (pulled s).irqLine = s.irqLine := rfl
@[simp] theorem pulled_resetReq (s : State) : (pulled s).resetReq = s.resetReq := rfl
@[simp] theorem pulled_cycles (s : State) : (pulled s).cycles = s.cycles := rfl
@[simp] theorem pulled_skip (s : State) : (pulled s).skip = s.skip := rfl
@[simp] theorem pulled_mem (s : State) : (pulled s).mem = s.mem := rfl
@[simp] theorem pulled_cart (s : State) : (pulled s).cart = s.cart := rfl
@[simp] theorem pulled_io (s : State) : (pulled s).io = s.io := rfl
@[simp] theorem pulled_ppu (s : State) : (pulled s).ppu = s.ppu := rfl
@[simp] theorem pulled_picture (s : State) : (pulled s).picture = s.picture := rfl
@[simp] theorem pulled_pads (s : State) : (pulled s).pads = s.pads := rfl

@[simp] theorem flags_setZN_c (f : Flags) (v : Byte) : (f.setZN v).c = f.c := rfl
@[simp] theorem flags_setZN_z (f : Flags) (v : Byte) : (f.setZN v).z = (v == 0) := rfl
@[simp] theorem flags_setZN_i (f : Flags) (v : Byte) : (f.setZN v).i = f.i := rfl
@[simp] theorem flags_setZN_d (f : Flags) (v : Byte) : (f.setZN v).d = f.d := rfl
@[simp] theorem flags_setZN_v (f : Flags) (v : Byte) : (f.setZN v).v = f.v := rfl
@[simp] theorem flags_setZN_n (f : Flags) (v : Byte) : (f.setZN v).n = v.getLsbD 7 := rfl

@[simp] theorem settle_settle (s : State) : s.settle.settle = s.settle := rfl

theorem settle_of_skip_zero (s : State) (h : s.skip = 0) : s.settle = s := by
  cases s; simp only at h; subst h; rfl

end Sys2Proof.Machine
end

