-- ==== Sys2Proof/Laws/Bus.lean ====
section
/-! SUPPORT. What the bus operations can do, said once: which regions the stack and the zero page lie in, what a read
and a write leave alone, and what a read answers after a write. -/

namespace Sys2Proof.Machine

/-! ## Regions -/

theorem region_of_lt_2000 (a : Addr) (h : a.toNat < 0x2000) : region a = .ram (a.toNat % 0x800) := by
  simp [region, h]

theorem zext16_toNat (z : Byte) : (zext16 z).toNat = z.toNat := by
  have := z.isLt
  simp [zext16]
  omega

/-- The zero page is internal RAM (20_memory.md R61). -/
theorem region_zext16 (z : Byte) : region (zext16 z) = .ram z.toNat := by
  have h := zext16_toNat z
  have hz := z.isLt
  rw [region_of_lt_2000 _ (by omega), h]
  congr 1
  omega

theorem stackAddr_toNat (sp : Byte) : (stackAddr sp).toNat = 0x100 + sp.toNat := by
  have h : stackAddr sp = BitVec.ofNat 16 (0x100 + sp.toNat) := by
    revert sp; decide
  rw [h]
  have := sp.isLt
  simp
  omega

/-- The stack page is internal RAM (20_memory.md R62). -/
theorem region_stackAddr (sp : Byte) : region (stackAddr sp) = .ram (0x100 + sp.toNat) := by
  have h := stackAddr_toNat sp
  have hz := sp.isLt
  rw [region_of_lt_2000 _ (by omega), h]
  congr 1
  omega

/-- The program window (20_memory.md R58). -/
theorem region_program (a : Addr) (h : 0x8000 ≤ a.toNat) : region a = .program a := by
  unfold region
  simp only
  repeat rw [if_neg (by omega)]

/-- A region that is a RAM cell is a cell of the internal RAM. -/
theorem ram_cell_lt (a : Addr) (k : Nat) (h : region a = .ram k) : k < 0x800 := by
  simp only [region] at h
  repeat' split at h
  all_goals simp at h
  omega

/-- A region that is an extended-RAM cell is a cell of that window. -/
theorem extRam_cell_range (a : Addr) (k : Nat) (h : region a = .extRam k) : 0x6000 ≤ k ∧ k < 0x8000 := by
  simp only [region] at h
  repeat' split at h
  all_goals simp at h
  omega

/-- The region of a program address is that address. -/
theorem program_region_eq (a p : Addr) (h : region a = .program p) : p = a := by
  simp only [region] at h
  repeat' split at h
  all_goals simp at h
  exact h.symm

/-! ## Reads -/

/-- A read leaves the state alone, or only tells a device of it. -/
theorem memRead_cases (a : Addr) (s : State) : (memRead a s).2 = s ∨ ∃ r, (memRead a s).2 = s.emit (.read r) := by
  unfold memRead
  split
  case h_2 r _ => exact Or.inr ⟨r, rfl⟩
  all_goals exact Or.inl rfl

/-- A read of an address that is no device's leaves the state alone (20_memory.md R60). -/
theorem memRead_state_of_not_device (a : Addr) (s : State) (h : isDevice a = false) : (memRead a s).2 = s := by
  unfold isDevice at h
  unfold memRead
  split at h
  · cases h
  · split
    case h_2 hd => simp_all
    all_goals rfl

theorem isDevice_zext16 (z : Byte) : isDevice (zext16 z) = false := by
  simp [isDevice, region_zext16]

theorem isDevice_stackAddr (sp : Byte) : isDevice (stackAddr sp) = false := by
  simp [isDevice, region_stackAddr]

@[simp] theorem memRead_a (a : Addr) (s : State) : (memRead a s).2.a = s.a := by
  rcases memRead_cases a s with h | ⟨r, h⟩ <;> simp [h]

@[simp] theorem memRead_x (a : Addr) (s : State) : (memRead a s).2.x = s.x := by
  rcases memRead_cases a s with h | ⟨r, h⟩ <;> simp [h]

@[simp] theorem memRead_y (a : Addr) (s : State) : (memRead a s).2.y = s.y := by
  rcases memRead_cases a s with h | ⟨r, h⟩ <;> simp [h]

@[simp] theorem memRead_sp (a : Addr) (s : State) : (memRead a s).2.sp = s.sp := by
  rcases memRead_cases a s with h | ⟨r, h⟩ <;> simp [h]

@[simp] theorem memRead_pc (a : Addr) (s : State) : (memRead a s).2.pc = s.pc := by
  rcases memRead_cases a s with h | ⟨r, h⟩ <;> simp [h]

@[simp] theorem memRead_flags (a : Addr) (s : State) : (memRead a s).2.flags = s.flags := by
  rcases memRead_cases a s with h | ⟨r, h⟩ <;> simp [h]

@[simp] theorem memRead_nmiPending (a : Addr) (s : State) : (memRead a s).2.nmiPending = s.nmiPending := by
  rcases memRead_cases a s with h | ⟨r, h⟩ <;> simp [h]

@[simp] theorem memRead_irqLine (a : Addr) (s : State) : (memRead a s).2.irqLine = s.irqLine := by
  rcases memRead_cases a s with h | ⟨r, h⟩ <;> simp [h]

@[simp] theorem memRead_resetReq (a : Addr) (s : State) : (memRead a s).2.resetReq = s.resetReq := by
  rcases memRead_cases a s with h | ⟨r, h⟩ <;> simp [h]

@[simp] theorem memRead_cycles (a : Addr) (s : State) : (memRead a s).2.cycles = s.cycles := by
  rcases memRead_cases a s with h | ⟨r, h⟩ <;> simp [h]

@[simp] theorem memRead_skip (a : Addr) (s : State) : (memRead a s).2.skip = s.skip := by
  rcases memRead_cases a s with h | ⟨r, h⟩ <;> simp [h]

@[simp] theorem memRead_mem (a : Addr) (s : State) : (memRead a s).2.mem = s.mem := by
  rcases memRead_cases a s with h | ⟨r, h⟩ <;> simp [h]

@[simp] theorem memRead_cart (a : Addr) (s : State) : (memRead a s).2.cart = s.cart := by
  rcases memRead_cases a s with h | ⟨r, h⟩ <;> simp [h]

@[simp] theorem readBlock_a (n : Nat) (a : Addr) (s : State) : (readBlock n a s).2.a = s.a := by
  induction n generalizing a s with
  | zero => rfl
  | succ n ih => simp [readBlock, ih]

@[simp] theorem readBlock_x (n : Nat) (a : Addr) (s : State) : (readBlock n a s).2.x = s.x := by
  induction n generalizing a s with
  | zero => rfl
  | succ n ih => simp [readBlock, ih]

@[simp] theorem readBlock_y (n : Nat) (a : Addr) (s : State) : (readBlock n a s).2.y = s.y := by
  induction n generalizing a s with
  | zero => rfl
  | succ n ih => simp [readBlock, ih]

@[simp] theorem readBlock_sp (n : Nat) (a : Addr) (s : State) : (readBlock n a s).2.sp = s.sp := by
  induction n generalizing a s with
  | zero => rfl
  | succ n ih => simp [readBlock, ih]

@[simp] theorem readBlock_pc (n : Nat) (a : Addr) (s : State) : (readBlock n a s).2.pc = s.pc := by
  induction n generalizing a s with
  | zero => rfl
  | succ n ih => simp [readBlock, ih]

@[simp] theorem readBlock_flags (n : Nat) (a : Addr) (s : State) : (readBlock n a s).2.flags = s.flags := by
  induction n generalizing a s with
  | zero => rfl
  | succ n ih => simp [readBlock, ih]

@[simp] theorem readBlock_nmiPending (n : Nat) (a : Addr) (s : State) : (readBlock n a s).2.nmiPending = s.nmiPending := by
  induction n generalizing a s with
  | zero => rfl
  | succ n ih => simp [readBlock, ih]

@[simp] theorem readBlock_irqLine (n : Nat) (a : Addr) (s : State) : (readBlock n a s).2.irqLine = s.irqLine := by
  induction n generalizing a s with
  | zero => rfl
  | succ n ih => simp [readBlock, ih]

@[simp] theorem readBlock_resetReq (n : Nat) (a : Addr) (s : State) : (readBlock n a s).2.resetReq = s.resetReq := by
  induction n generalizing a s with
  | zero => rfl
  | succ n ih => simp [readBlock, ih]

@[simp] theorem readBlock_cycles (n : Nat) (a : Addr) (s : State) : (readBlock n a s).2.cycles = s.cycles := by
  induction n generalizing a s with
  | zero => rfl
  | succ n ih => simp [readBlock, ih]

@[simp] theorem readBlock_skip (n : Nat) (a : Addr) (s : State) : (readBlock n a s).2.skip = s.skip := by
  induction n generalizing a s with
  | zero => rfl
  | succ n ih => simp [readBlock, ih]

@[simp] theorem readBlock_mem (n : Nat) (a : Addr) (s : State) : (readBlock n a s).2.mem = s.mem := by
  induction n generalizing a s with
  | zero => rfl
  | succ n ih => simp [readBlock, ih]

@[simp] theorem readBlock_cart (n : Nat) (a : Addr) (s : State) : (readBlock n a s).2.cart = s.cart := by
  induction n generalizing a s with
  | zero => rfl
  | succ n ih => simp [readBlock, ih]

@[simp] theorem memRead_picture (a : Addr) (s : State) : (memRead a s).2.picture = s.picture := by
  rcases memRead_cases a s with h | ⟨r, h⟩ <;> simp [h]

@[simp] theorem memRead_pads (a : Addr) (s : State) : (memRead a s).2.pads = s.pads := by
  rcases memRead_cases a s with h | ⟨r, h⟩ <;> simp [h]

@[simp] theorem readBlock_picture (n : Nat) (a : Addr) (s : State) : (readBlock n a s).2.picture = s.picture := by
  induction n generalizing a s with
  | zero => rfl
  | succ n ih => simp [readBlock, ih]

@[simp] theorem readBlock_pads (n : Nat) (a : Addr) (s : State) : (readBlock n a s).2.pads = s.pads := by
  induction n generalizing a s with
  | zero => rfl
  | succ n ih => simp [readBlock, ih]

/-! ## Sprite DMA -/

@[simp] theorem spriteDma_a (v : Byte) (s : State) : (spriteDma v s).a = s.a := by
  simp [spriteDma]

@[simp] theorem spriteDma_x (v : Byte) (s : State) : (spriteDma v s).x = s.x := by
  simp [spriteDma]

@[simp] theorem spriteDma_y (v : Byte) (s : State) : (spriteDma v s).y = s.y := by
  simp [spriteDma]

@[simp] theorem spriteDma_sp (v : Byte) (s : State) : (spriteDma v s).sp = s.sp := by
  simp [spriteDma]

@[simp] theorem spriteDma_pc (v : Byte) (s : State) : (spriteDma v s).pc = s.pc := by
  simp [spriteDma]

@[simp] theorem spriteDma_flags (v : Byte) (s : State) : (spriteDma v s).flags = s.flags := by
  simp [spriteDma]

@[simp] theorem spriteDma_nmiPending (v : Byte) (s : State) : (spriteDma v s).nmiPending = s.nmiPending := by
  simp [spriteDma]

@[simp] theorem spriteDma_irqLine (v : Byte) (s : State) : (spriteDma v s).irqLine = s.irqLine := by
  simp [spriteDma]

@[simp] theorem spriteDma_resetReq (v : Byte) (s : State) : (spriteDma v s).resetReq = s.resetReq := by
  simp [spriteDma]

@[simp] theorem spriteDma_cycles (v : Byte) (s : State) : (spriteDma v s).cycles = s.cycles := by
  simp [spriteDma]

@[simp] theorem spriteDma_mem (v : Byte) (s : State) : (spriteDma v s).mem = s.mem := by
  simp [spriteDma]

@[simp] theorem spriteDma_cart (v : Byte) (s : State) : (spriteDma v s).cart = s.cart := by
  simp [spriteDma]

@[simp] theorem spriteDma_picture (v : Byte) (s : State) : (spriteDma v s).picture = s.picture := by
  simp [spriteDma]

@[simp] theorem spriteDma_pads (v : Byte) (s : State) : (spriteDma v s).pads = s.pads := by
  simp [spriteDma]

@[simp] theorem spriteDma_skip (v : Byte) (s : State) : (spriteDma v s).skip = s.skip + dmaStall s.cycles := by
  simp [spriteDma]

/-! ## What a read of a byte depends on -/

/-- A byte that is no device's depends on the stored bytes and the cartridge alone. -/
theorem peek_congr (s t : State) (a : Addr) (ha : isDevice a = false) (hm : t.mem = s.mem) (hc : t.cart = s.cart) :
    peek t a = peek s a := by
  have hx : t.hasExtRam = s.hasExtRam := by simp only [State.hasExtRam, hc]
  have hp : ∀ p, t.readProgram p = s.readProgram p := fun p => by simp only [State.readProgram, hc]
  unfold isDevice at ha
  unfold peek memRead
  split
  case h_2 => simp_all
  all_goals simp only [hm, hx, hp]

theorem peek_zext16 (s : State) (z : Byte) : peek s (zext16 z) = Memory.read s.mem z.toNat := by
  simp [peek, memRead, region_zext16]

theorem peek_stackAddr (s : State) (sp : Byte) : peek s (stackAddr sp) = Memory.read s.mem (0x100 + sp.toNat) := by
  simp [peek, memRead, region_stackAddr]

/-! ## Writes -/

@[simp] theorem memWrite_a (a : Addr) (v : Byte) (s : State) : (memWrite a v s).a = s.a := by
  unfold memWrite
  split
  case h_4 => exact spriteDma_a v _
  case h_6 => split <;> rfl
  all_goals rfl

@[simp] theorem memWrite_x (a : Addr) (v : Byte) (s : State) : (memWrite a v s).x = s.x := by
  unfold memWrite
  split
  case h_4 => exact spriteDma_x v _
  case h_6 => split <;> rfl
  all_goals rfl

@[simp] theorem memWrite_y (a : Addr) (v : Byte) (s : State) : (memWrite a v s).y = s.y := by
  unfold memWrite
  split
  case h_4 => exact spriteDma_y v _
  case h_6 => split <;> rfl
  all_goals rfl

@[simp] theorem memWrite_sp (a : Addr) (v : Byte) (s : State) : (memWrite a v s).sp = s.sp := by
  unfold memWrite
  split
  case h_4 => exact spriteDma_sp v _
  case h_6 => split <;> rfl
  all_goals rfl

@[simp] theorem memWrite_pc (a : Addr) (v : Byte) (s : State) : (memWrite a v s).pc = s.pc := by
  unfold memWrite
  split
  case h_4 => exact spriteDma_pc v _
  case h_6 => split <;> rfl
  all_goals rfl

@[simp] theorem memWrite_flags (a : Addr) (v : Byte) (s : State) : (memWrite a v s).flags = s.flags := by
  unfold memWrite
  split
  case h_4 => exact spriteDma_flags v _
  case h_6 => split <;> rfl
  all_goals rfl

@[simp] theorem memWrite_nmiPending (a : Addr) (v : Byte) (s : State) : (memWrite a v s).nmiPending = s.nmiPending := by
  unfold memWrite
  split
  case h_4 => exact spriteDma_nmiPending v _
  case h_6 => split <;> rfl
  all_goals rfl

@[simp] theorem memWrite_irqLine (a : Addr) (v : Byte) (s : State) : (memWrite a v s).irqLine = s.irqLine := by
  unfold memWrite
  split
  case h_4 => exact spriteDma_irqLine v _
  case h_6 => split <;> rfl
  all_goals rfl

@[simp] theorem memWrite_resetReq (a : Addr) (v : Byte) (s : State) : (memWrite a v s).resetReq = s.resetReq := by
  unfold memWrite
  split
  case h_4 => exact spriteDma_resetReq v _
  case h_6 => split <;> rfl
  all_goals rfl

@[simp] theorem memWrite_cycles (a : Addr) (v : Byte) (s : State) : (memWrite a v s).cycles = s.cycles := by
  unfold memWrite
  split
  case h_4 => exact spriteDma_cycles v _
  case h_6 => split <;> rfl
  all_goals rfl


/-- A write to internal RAM. -/
theorem memWrite_ram (a : Addr) (v : Byte) (s : State) (k : Nat) (h : region a = .ram k) :
    memWrite a v s = { s with mem := Memory.write s.mem k v } := by
  simp [memWrite, h]

/-- The byte written to internal RAM is read back at every address of the same cell (20_memory.md R52). -/
theorem peek_memWrite_ram (a b : Addr) (v : Byte) (s : State) (k : Nat) (ha : region a = .ram k)
    (hb : region b = .ram k) (hm : Memory.wf s.mem = true) : peek (memWrite a v s) b = v := by
  rw [memWrite_ram a v s k ha]
  simp [peek, memRead, hb, Memory.read_write_same k v hm]

/-- The stored bytes after a write: none changed, or one cell of storage. -/
theorem memWrite_mem (a : Addr) (v : Byte) (s : State) :
    (memWrite a v s).mem = s.mem ∨
      ∃ k, (region a = .ram k ∨ region a = .extRam k) ∧ (memWrite a v s).mem = Memory.write s.mem k v := by
  unfold memWrite
  split
  case h_1 k h => exact Or.inr ⟨k, Or.inl h, rfl⟩
  case h_4 => exact Or.inl (spriteDma_mem v _)
  case h_6 k h =>
    split
    · exact Or.inr ⟨k, Or.inr h, rfl⟩
    · exact Or.inl rfl
  all_goals exact Or.inl rfl

/-- The cartridge after a write: only a write to the program window tells the mapper. -/
theorem memWrite_cart (a : Addr) (v : Byte) (s : State) :
    (memWrite a v s).cart = s.cart ∨
      ∃ p, region a = .program p ∧ (memWrite a v s).cart = s.cart.map (·.writeProgram p v) := by
  unfold memWrite
  split
  case h_7 p h => exact Or.inr ⟨p, h, rfl⟩
  case h_4 => exact Or.inl (spriteDma_cart v _)
  case h_6 => split <;> exact Or.inl rfl
  all_goals exact Or.inl rfl

/-- The PictureBus's storage after a write: only a write of the data register moves a byte there (20_memory.md R82). -/
theorem memWrite_picture (a : Addr) (v : Byte) (s : State) :
    (memWrite a v s).picture = s.picture ∨
      (region a = .device 0x2007 ∧ (memWrite a v s).picture = s.writePicture (Config.pictureAddress s.io) v) := by
  unfold memWrite
  split
  case h_2 r h =>
    by_cases hr : r = 0x2007
    · subst hr
      exact Or.inr ⟨h, by simp⟩
    · exact Or.inl (if_neg hr)
  case h_4 => exact Or.inl (spriteDma_picture v _)
  case h_6 => split <;> exact Or.inl rfl
  all_goals exact Or.inl rfl

/-- The controllers after a write: only a write of the strobe register latches (60_exceptions.md R264). -/
theorem memWrite_pads (a : Addr) (v : Byte) (s : State) :
    (memWrite a v s).pads = s.pads ∨ (region a = .device 0x4016 ∧ (memWrite a v s).pads = s.pads.strobe v) := by
  unfold memWrite
  split
  case h_2 r h =>
    by_cases hr : r = 0x4016
    · subst hr
      exact Or.inr ⟨h, by simp⟩
    · exact Or.inl (if_neg hr)
  case h_4 => exact Or.inl (spriteDma_pads v _)
  case h_6 => split <;> exact Or.inl rfl
  all_goals exact Or.inl rfl

/-- A write to a stack slot stores the byte in internal RAM and does nothing else. -/
theorem memWrite_stackAddr (sp v : Byte) (s : State) :
    memWrite (stackAddr sp) v s = { s with mem := Memory.write s.mem (0x100 + sp.toNat) v } :=
  memWrite_ram _ _ _ _ (region_stackAddr sp)

/-! ## Pushes -/

@[simp] theorem push_a (v : Byte) (s : State) : (push v s).a = s.a := by
  simp [push]

@[simp] theorem push_x (v : Byte) (s : State) : (push v s).x = s.x := by
  simp [push]

@[simp] theorem push_y (v : Byte) (s : State) : (push v s).y = s.y := by
  simp [push]

@[simp] theorem push_sp (v : Byte) (s : State) : (push v s).sp = s.sp - 1 := by
  simp [push]

@[simp] theorem push_pc (v : Byte) (s : State) : (push v s).pc = s.pc := by
  simp [push]

@[simp] theorem push_flags (v : Byte) (s : State) : (push v s).flags = s.flags := by
  simp [push]

@[simp] theorem push_nmiPending (v : Byte) (s : State) : (push v s).nmiPending = s.nmiPending := by
  simp [push]

@[simp] theorem push_irqLine (v : Byte) (s : State) : (push v s).irqLine = s.irqLine := by
  simp [push]

@[simp] theorem push_resetReq (v : Byte) (s : State) : (push v s).resetReq = s.resetReq := by
  simp [push]

@[simp] theorem push_cycles (v : Byte) (s : State) : (push v s).cycles = s.cycles := by
  simp [push]

@[simp] theorem push_skip (v : Byte) (s : State) : (push v s).skip = s.skip := by
  simp [push, memWrite_stackAddr]

@[simp] theorem push_cart (v : Byte) (s : State) : (push v s).cart = s.cart := by
  simp [push, memWrite_stackAddr]

@[simp] theorem push_io (v : Byte) (s : State) : (push v s).io = s.io := by
  simp [push, memWrite_stackAddr]

@[simp] theorem push_ppu (v : Byte) (s : State) : (push v s).ppu = s.ppu := by
  simp [push, memWrite_stackAddr]

@[simp] theorem push_picture (v : Byte) (s : State) : (push v s).picture = s.picture := by
  simp [push, memWrite_stackAddr]

@[simp] theorem push_pads (v : Byte) (s : State) : (push v s).pads = s.pads := by
  simp [push, memWrite_stackAddr]

@[simp] theorem push_mem (v : Byte) (s : State) :
    (push v s).mem = Memory.write s.mem (0x100 + s.sp.toNat) v := by
  simp [push, memWrite_stackAddr]

/-! ## The mapper -/

/-- A write to the program window never changes the images, their sizes or the presence of extended RAM (R58, R75). -/
theorem writeProgram_image (c : Cartridge) (a : Addr) (v : Byte) :
    (c.writeProgram a v).prg = c.prg ∧ (c.writeProgram a v).chr = c.chr ∧ (c.writeProgram a v).prgBanks = c.prgBanks ∧
      (c.writeProgram a v).chrBanks = c.chrBanks ∧ (c.writeProgram a v).extRam = c.extRam := by
  unfold Cartridge.writeProgram
  split
  case h_2 r _ =>
    unfold Cartridge.shiftWrite
    split
    · simp
    · simp only
      split <;> simp
  all_goals simp

/-- A write to the program window leaves legal mapper registers. -/
theorem writeProgram_legal (c : Cartridge) (a : Addr) (v : Byte) (h : c.mapper.legal = true) :
    (c.writeProgram a v).mapper.legal = true := by
  unfold Cartridge.writeProgram
  split
  case h_1 => exact h
  case h_2 r _ =>
    unfold Cartridge.shiftWrite
    split
    · rfl
    · simp only
      split
      · exact decide_eq_true ‹_›
      · rfl
  all_goals rfl

end Sys2Proof.Machine
end

