-- ==== Sys2Proof/Laws/Words.lean ====
section
/-! SUPPORT. The two bytes of a 16-bit word: putting together and taking apart (spec 20_memory.md R56; 30_encoding.md
R92). -/

namespace Sys2Proof

@[simp] theorem loByte_word16 (hi lo : Byte) : loByte (word16 hi lo) = lo := by
  simp only [loByte, word16]
  exact BitVec.extractLsb'_append_eq_right

@[simp] theorem hiByte_word16 (hi lo : Byte) : hiByte (word16 hi lo) = hi := by
  simp only [hiByte, word16]
  exact BitVec.extractLsb'_append_eq_left

/-- The word as a number: the low byte counts once, the high byte 256 times. -/
theorem word16_toNat (hi lo : Byte) : (word16 hi lo).toNat = lo.toNat + 256 * hi.toNat := by
  have := Nat.two_pow_add_eq_or_of_lt (i := 8) lo.isLt hi.toNat
  simp only [word16, BitVec.toNat_append]
  rw [Nat.shiftLeft_eq, ← Nat.mul_comm]
  omega

theorem hiByte_toNat (w : Addr) : (hiByte w).toNat = w.toNat / 256 := by
  have := w.isLt
  simp [hiByte, Nat.shiftRight_eq_div_pow]
  omega

theorem loByte_toNat (w : Addr) : (loByte w).toNat = w.toNat % 256 := by
  simp [loByte]

/-- A word is made of its two bytes. -/
@[simp] theorem word16_hiByte_loByte (w : Addr) : word16 (hiByte w) (loByte w) = w := by
  apply BitVec.eq_of_toNat_eq
  rw [word16_toNat, hiByte_toNat, loByte_toNat]
  omega

/-- The bytes of an address in memory order. -/
@[simp] theorem addrBytes_word16 (hi lo : Byte) : addrBytes (word16 hi lo) = [lo, hi] := by
  simp [addrBytes]

end Sys2Proof
end

