-- ==== Sys2Proof/Laws/Exec.lean ====
section
/-! SUPPORT. What the shared operations of the meanings can do, said once in the words the statements use: a read, an
operand, a push, an interrupt entry, a step. -/

namespace Sys2Proof.Machine

open Sys2Proof.Claims

/-- The PPU registers' window repeats every 8 bytes (20_memory.md R54). -/
theorem region_ppu (a : Addr) (h1 : 0x2000 ≤ a.toNat) (h2 : a.toNat < 0x4000) :
    region a = .device (0x2000 ||| (a &&& 0x0007)) := by
  have hreg : BitVec.ofNat 16 (0x2000 + a.toNat % 8) = 0x2000 ||| (a &&& 0x0007) := by
    have hr : a &&& 0x0007 = BitVec.ofNat 16 (a.toNat % 8) := by
      apply BitVec.eq_of_toNat_eq
      simp [BitVec.toNat_and, Nat.and_two_pow_sub_one_eq_mod a.toNat 3]
      omega
    rw [hr]
    have hlt : a.toNat % 8 < 8 := Nat.mod_lt _ (by decide)
    generalize a.toNat % 8 = k at hlt
    interval_cases k <;> rfl
  unfold region
  simp only
  rw [if_neg (by omega), if_pos h2, hreg]

/-- The other device registers that answer reads (Table R51). -/
theorem region_apu_read (a : Addr) (h1 : 0x4015 ≤ a.toNat) (h2 : a.toNat < 0x4018) : region a = .device a := by
  unfold region
  simp only
  rw [if_neg (by omega), if_neg (by omega), if_neg (by omega), if_neg (by omega), if_pos h2]

/-- A device register is the PPU's or one of the three others. -/
theorem device_range (a reg : Addr) (h : region a = .device reg) :
    (0x2000 ≤ a.toNat ∧ a.toNat < 0x4000) ∨ (0x4015 ≤ a.toNat ∧ a.toNat < 0x4018) := by
  simp only [region] at h
  repeat' split at h
  all_goals simp at h
  all_goals omega

/-- A read's effect on the PPU: only the status register's read has one (43_logic_shift.md R183). -/
theorem sees_read (a : Addr) (s : State) (h1 : 0x2000 ≤ a.toNat) (h2 : a.toNat < 0x4000) :
    s.ppu.sees s.io (.read (0x2000 ||| (a &&& 0x0007))) = ppuAfterRead s a := by
  have hr : (0x2000 ||| (a &&& 0x0007) = (0x2002 : Addr)) ↔ a &&& 0x0007 = 0x0002 := by
    have hlt : (a &&& 0x0007).toNat < 8 := by
      simp only [BitVec.toNat_and]
      exact Nat.lt_of_le_of_lt Nat.and_le_right (by decide)
    have hb : a &&& 0x0007 = BitVec.ofNat 16 (a &&& 0x0007).toNat := by simp
    rw [hb]
    generalize (a &&& 0x0007).toNat = k at hlt
    interval_cases k <;> decide
  simp only [Ppu.sees, ppuAfterRead, hr]
  by_cases h : a &&& 0x0007 = 0x0002 <;> simp [h1, h2]

/-- A read answers the byte `peek` names and tells a device of it, nothing else (20_memory.md R60). -/
theorem memRead_eq (a : Addr) (s : State) : memRead a s = (peek s a, afterRead s a) := by
  refine Prod.ext rfl ?_
  by_cases h1 : 0x2000 ≤ a.toNat ∧ a.toNat < 0x4000
  · simp only [memRead, region_ppu a h1.1 h1.2, State.emit, afterRead, ioAfterRead, h1, and_self, if_true]
    rw [sees_read a s h1.1 h1.2]
  · have hppu : ppuAfterRead s a = s.ppu := by
      unfold ppuAfterRead
      rw [if_neg (fun h => h1 ⟨h.1, h.2.1⟩)]
    by_cases h2 : 0x4015 ≤ a.toNat ∧ a.toNat < 0x4018
    · have hne : a ≠ 0x2002 := by rintro rfl; simp at h2
      have hs : s.ppu.sees s.io (.read a) = s.ppu := if_neg hne
      simp [memRead, region_apu_read a h2.1 h2.2, State.emit, afterRead, ioAfterRead, hppu, h1, h2, hs]
    · have hd : isDevice a = false := by
        unfold isDevice
        split
        · rename_i reg h
          rcases device_range a reg h with h | h
          · exact absurd h h1
          · exact absurd h h2
        · rfl
      rw [memRead_state_of_not_device a s hd]
      simp [afterRead, ioAfterRead, hppu, h1, h2]

/-- Reading an operand: an immediate reads nothing more, a memory operand is one read. -/
theorem readSrc_eq (o : Src) (s : State) :
    readSrc s o = (operandByte s o, { s with io := ioAfterSrc s o, ppu := ppuAfterSrc s o }) := by
  cases o <;> simp [readSrc, operandByte, ioAfterSrc, ppuAfterSrc, memRead_eq, afterRead]

/-- `SetZN` in the statements' words (10_state.md R37). -/
theorem setZN_eq_znOf (f : Flags) (v : Byte) : f.setZN v = znOf f v := by
  simp [Flags.setZN, znOf, BitVec.msb_eq_getLsbD_last]
  rfl

/-- A push stores one byte of the stack page and lowers SP by one (20_memory.md R63). -/
theorem push_eq (v : Byte) (s : State) :
    push v s = { s with mem := Memory.write s.mem (0x100 + s.sp.toNat) v, sp := s.sp - 1 } := by
  simp [push, memWrite_stackAddr, State.setSp]

/-- The byte a pull answers (20_memory.md R64). -/
theorem pullByte_eq (s : State) : pullByte s = Memory.read s.mem (0x100 + (s.sp + 1).toNat) := by
  simp [pullByte, peek_stackAddr]

/-- A read of the program window depends on the cartridge alone (20_memory.md R58). -/
theorem peek_program (s t : State) (a : Addr) (h : 0x8000 ≤ a.toNat) (hc : t.cart = s.cart) : peek t a = peek s a := by
  simp [peek, memRead, region_program a h, State.readProgram, hc]

/-- A legal state's memory has the canonical form. -/
theorem State.legal_mem {s : State} (h : s.legal = true) : Memory.wf s.mem = true := by
  simp only [State.legal, Bool.and_eq_true] at h
  exact h.1.1.1.1

/-- A step with a cartridge is the boundary's action between the passing of two stalls. -/
theorem step_of_cart (s : State) (h : s.cart.isSome = true) : step s = settleResult (boundary s.settle) := by
  unfold step
  cases hc : s.cart with
  | none => simp [hc] at h
  | some c => rfl

/-- Everything a step can do: it was given a cartridge, and the boundary's action answered a state whose stall has
passed. -/
theorem step_cases {s t : State} (h : step s = .next t) :
    s.cart.isSome = true ∧ ∃ u : State, boundary s.settle = .next u ∧ t = u.settle := by
  unfold step at h
  split at h
  · cases h
  · rename_i c hc
    refine ⟨by simp [hc], ?_⟩
    cases hb : boundary s.settle with
    | next u => rw [hb] at h; cases h; exact ⟨u, rfl, rfl⟩
    | fault r => rw [hb] at h; cases h
    | refused r => rw [hb] at h; cases h

/-- Everything the boundary can do (60_exceptions.md R245). -/
theorem boundary_cases {s t : State} (h : boundary s = .next t) :
    (s.resetReq = true ∧ t = doReset s) ∨
    (s.resetReq = false ∧ s.nmiPending = true ∧ t = interruptEntry nmiVector false { s with nmiPending := false }) ∨
    (s.resetReq = false ∧ s.nmiPending = false ∧ s.irqLine = true ∧ s.flags.i = false ∧
      t = interruptEntry irqVector false s) ∨
    (s.resetReq = false ∧ s.nmiPending = false ∧ (s.irqLine = false ∨ s.flags.i = true) ∧
      exec (fetchInstr s).1 (fetchInstr s).2 = .next t) := by
  unfold boundary executeInstruction at h
  split at h
  · cases h; simp_all
  split at h
  · cases h; simp_all
  split at h
  · cases h; simp_all
  · right; right; right
    simp_all
    cases hi : s.irqLine <;> simp_all

end Sys2Proof.Machine
end

