-- ==== Sys2Proof/Laws/Picture.lean ====
section
/-! SUPPORT. The laws of the PictureBus and the controllers: a read of a cell after a write, that a write keeps the
canonical form, which nametables share storage, and what a strobe latches. -/

namespace Sys2Proof.Machine

/-- A write to the PictureBus keeps its memories in canonical form. -/
theorem Picture.legal_writeCell {p : Picture} (k : PictureCell) (v : Byte) (h : p.legal = true) :
    (p.writeCell k v).legal = true := by
  simp only [Picture.legal, Bool.and_eq_true, decide_eq_true_eq] at h ⊢
  obtain ⟨⟨hn, hp⟩, hg⟩ := h
  cases k with
  | graphicsRom i => exact ⟨⟨hn, hp⟩, hg⟩
  | absent => exact ⟨⟨hn, hp⟩, hg⟩
  | graphicsRam i => exact ⟨⟨hn, hp⟩, Memory.wf_write i v hg⟩
  | palette i => exact ⟨⟨hn, Memory.wf_write i.toNat v hp⟩, hg⟩
  | nametable b i =>
    refine ⟨⟨fun j => ?_, hp⟩, hg⟩
    simp only [Picture.writeCell, Fin.getElem_fin, Vector.getElem_set]
    split
    · exact Memory.wf_write i.toNat v (hn b)
    · exact hn j

/-- A read of a cell after a write: the byte written where the cell is the one written and takes writes, and otherwise the
byte before (20_memory.md R75, R82). -/
theorem readCell_writeCell (s : State) (k j : PictureCell) (v : Byte) (h : s.picture.legal = true) :
    State.readCell j { s with picture := s.picture.writeCell k v } =
      if j = k ∧ k.isRam = true then v else s.readCell j := by
  simp only [Picture.legal, Bool.and_eq_true, decide_eq_true_eq] at h
  obtain ⟨⟨hn, hp⟩, hg⟩ := h
  have hother : ∀ (m : Memory) (a b : Nat), a ≠ b → Memory.read (Memory.write m a v) b = Memory.read m b :=
    fun m a b hab => Memory.read_write_other m a b v hab
  cases k with
  | graphicsRom i => simp [Picture.writeCell, PictureCell.isRam]
  | absent => simp [Picture.writeCell, PictureCell.isRam]
  | graphicsRam i =>
    cases j with
    | graphicsRam l =>
      by_cases e : l = i
      · subst e
        simp [State.readCell, Picture.writeCell, PictureCell.isRam, Memory.read_write_same l v hg]
      · simp [State.readCell, Picture.writeCell, PictureCell.isRam, e, hother _ _ _ (Ne.symm e)]
    | _ => simp [State.readCell, Picture.writeCell]
  | palette i =>
    cases j with
    | palette l =>
      by_cases e : l = i
      · subst e
        simp [State.readCell, Picture.writeCell, PictureCell.isRam, Memory.read_write_same l.toNat v hp]
      · have : i.toNat ≠ l.toNat := fun h => e (BitVec.eq_of_toNat_eq h.symm)
        simp [State.readCell, Picture.writeCell, PictureCell.isRam, e, hother _ _ _ this]
    | _ => simp [State.readCell, Picture.writeCell]
  | nametable b i =>
    cases j with
    | nametable c l =>
      by_cases eb : c = b
      · subst eb
        by_cases e : l = i
        · subst e
          simpa [State.readCell, Picture.writeCell, PictureCell.isRam] using Memory.read_write_same l.toNat v (hn c)
        · have : i.toNat ≠ l.toNat := fun h => e (BitVec.eq_of_toNat_eq h.symm)
          simp [State.readCell, Picture.writeCell, PictureCell.isRam, e, hother _ _ _ this]
      · have : b.val ≠ c.val := fun h => eb (Fin.ext h.symm)
        simp [State.readCell, Picture.writeCell, eb, this]
    | _ => simp [State.readCell, Picture.writeCell]

/-- A read of a PictureBus address after a write at another: the byte written where the two share storage that takes
writes (20_memory.md R82). -/
theorem readPicture_writePicture (s : State) (a b : Addr) (v : Byte) (h : s.picture.legal = true) :
    State.readPicture b { s with picture := s.writePicture a v } =
      if s.pictureCell b = s.pictureCell a ∧ (s.pictureCell a).isRam = true then v else s.readPicture b :=
  readCell_writeCell s (s.pictureCell a) (s.pictureCell b) v h

/-- A strobe write of 0 latches both ports; the host's bitmaps stay (60_exceptions.md R264). -/
theorem Pads.strobe_zero (p : Pads) : p.strobe 0x00 = p.latch := by
  simp [Pads.strobe]

/-- Everything a write of the strobe register can do. -/
theorem Pads.strobe_cases (v : Byte) (p : Pads) : p.strobe v = p.latch ∨ (v ≠ 0x00 ∧ p.strobe v = p) := by
  unfold Pads.strobe
  split
  · exact Or.inl rfl
  · rename_i h
    exact Or.inr ⟨fun e => h (Or.inl e), rfl⟩

end Sys2Proof.Machine
end

