-- ==== Sys2Proof/Laws/Ppu.lean ====
section
/-! SUPPORT. What the PPU's operations can do: what an event and a cycle leave alone, and where bytes land in sprite
memory. -/

namespace Sys2Proof.Machine

/-- What the PPU takes from the bus leaves its counters alone, but for a reset. -/
theorem Ppu.sees_counters (p : Ppu) (seen : List IoEvent) (e : IoEvent) (h : e ≠ .deviceReset) :
    (p.sees seen e).phase = p.phase ∧ (p.sees seen e).scanline = p.scanline ∧ (p.sees seen e).dot = p.dot := by
  cases e with
  | read reg => simp only [Ppu.sees]; split <;> exact ⟨rfl, rfl, rfl⟩
  | write reg v =>
    simp only [Ppu.sees]
    split
    · simp
    split
    · simp
    split <;> simp
  | dma page bytes => simp [Ppu.sees]
  | deviceReset => exact absurd rfl h
  | buttons port bitmap => exact ⟨rfl, rfl, rfl⟩

/-- A PPU cycle moves the counters and the flags only (60_exceptions.md R262). -/
theorem Ppu.cycle_registers (hit : Bool) (p : Ppu) :
    (p.cycle hit).control = p.control ∧ (p.cycle hit).mask = p.mask ∧ (p.cycle hit).oam = p.oam := by
  simp [Ppu.cycle, Ppu.latch, Ppu.move]

/-- The counters after a PPU cycle are the moved ones. -/
theorem Ppu.cycle_counters (hit : Bool) (p : Ppu) :
    (p.cycle hit).phase = p.move.phase ∧ (p.cycle hit).scanline = p.move.scanline ∧ (p.cycle hit).dot = p.move.dot := by
  simp [Ppu.cycle, Ppu.latch]

/-- Byte `k` of what lands in sprite memory lies `k` bytes after the start, around the end (60_exceptions.md R265). -/
theorem landInOam_get (start : Byte) (bytes : List Byte) (oam : Vector Byte 256) (k : Nat) (hk : k < 256)
    (hlen : k < bytes.length) : (landInOam start bytes oam)[(start.toNat + k) % 256]? = some bytes[k] := by
  have hs := start.isLt
  have hj : (start.toNat + k) % 256 < 256 := Nat.mod_lt _ (by decide)
  have hsub : (BitVec.ofNat 8 ((start.toNat + k) % 256) - start).toNat = k := by
    simp only [BitVec.toNat_sub, BitVec.toNat_ofNat]
    omega
  rw [Vector.getElem?_eq_getElem hj]
  simp only [landInOam, Vector.getElem_ofFn, hsub]
  simp [hlen]

/-- A byte of sprite memory on which nothing lands stays. -/
theorem landInOam_get_other (start : Byte) (bytes : List Byte) (oam : Vector Byte 256) (j : Fin 256)
    (h : bytes.length ≤ (BitVec.ofNat 8 j.val - start).toNat) : (landInOam start bytes oam)[j] = oam[j] := by
  simp only [landInOam, Fin.getElem_fin, Vector.getElem_ofFn]
  exact List.getD_eq_default _ _ h

end Sys2Proof.Machine
end

