-- ==== Sys2Proof/Laws/Legal.lean ====
section
/-! SUPPORT. The shared operations keep a legal state legal. -/

namespace Sys2Proof.Machine

/-- Legality looks at the stored bytes, the cartridge, the PPU's counters and the PictureBus's memories alone. -/
theorem legal_congr {s t : State} (hm : t.mem = s.mem) (hc : t.cart = s.cart) (hp : t.ppu.legal = s.ppu.legal)
    (hg : t.picture = s.picture) : t.legal = s.legal := by
  simp only [State.legal, hm, hc, hp, hg]

/-- A legal state's PPU is legal. -/
theorem State.legal_ppu {s : State} (h : s.legal = true) : s.ppu.legal = true := by
  simp only [State.legal, Bool.and_eq_true] at h
  exact h.1.2

/-- A legal state's PictureBus is legal. -/
theorem State.legal_picture {s : State} (h : s.legal = true) : s.picture.legal = true := by
  simp only [State.legal, Bool.and_eq_true] at h
  exact h.2

/-- The first scanline is pre-render (60_exceptions.md R262). -/
theorem phaseOf_zero : phaseOf 0 = .preRender := by
  simp [phaseOf, preRenderLines]

/-- The PPU at power-on is legal. -/
theorem Ppu.legal_initial : Ppu.initial.legal = true := by
  simp [Ppu.legal, Ppu.initial, phaseOf_zero]

/-- Legality of the PPU looks at its counters and its phase alone. -/
theorem Ppu.legal_congr {p q : Ppu} (hp : q.phase = p.phase) (hs : q.scanline = p.scanline) (hd : q.dot = p.dot) :
    q.legal = p.legal := by
  simp only [Ppu.legal, hp, hs, hd]

/-- What the PPU takes from the bus keeps it legal. -/
theorem Ppu.legal_sees {p : Ppu} (seen : List IoEvent) (e : IoEvent) (h : p.legal = true) :
    (p.sees seen e).legal = true := by
  by_cases he : e = .deviceReset
  · subst he
    rw [← Ppu.legal_initial]
    exact Ppu.legal_congr rfl rfl rfl
  · obtain ⟨hp, hs, hd⟩ := p.sees_counters seen e he
    rw [Ppu.legal_congr hp hs hd, h]

/-- Moving the counters keeps them in range and the phase that of the scanline (60_exceptions.md R262). -/
theorem Ppu.legal_move {p : Ppu} (h : p.legal = true) : p.move.legal = true := by
  simp only [Ppu.legal, Bool.and_eq_true, decide_eq_true_eq, beq_iff_eq] at h ⊢
  obtain ⟨⟨hs, hd⟩, hph⟩ := h
  cases hdone : p.lineDone with
  | true =>
    simp only [Ppu.move, hdone, if_true]
    exact ⟨⟨Nat.mod_lt _ (by decide), by decide⟩, trivial⟩
  | false =>
    have := (Config.dotsInScanlinePred p.frame p.scanline p.mask).isLt
    have hlt : ¬ (Config.dotsInScanlinePred p.frame p.scanline p.mask).val + 1 ≤ p.dot + 1 := of_decide_eq_false hdone
    simp only [Ppu.move, hdone, Bool.false_eq_true, if_false]
    exact ⟨⟨hs, by omega⟩, hph⟩

/-- One PPU cycle keeps the PPU legal. -/
theorem Ppu.legal_cycle {p : Ppu} (hit : Bool) (h : p.legal = true) : (p.cycle hit).legal = true := by
  rw [← Ppu.legal_move h]
  exact Ppu.legal_congr (by simp [Ppu.cycle, Ppu.latch]) (by simp [Ppu.cycle, Ppu.latch]) (by simp [Ppu.cycle, Ppu.latch])

/-- A device's event keeps the state legal. -/
theorem emit_legal {s : State} (e : IoEvent) (h : s.legal = true) : (s.emit e).legal = true := by
  have := Ppu.legal_sees s.io e (State.legal_ppu h)
  rw [← h]
  exact legal_congr rfl rfl (this.trans (State.legal_ppu h).symm) rfl

/-- A PPU cycle keeps the state legal. -/
theorem ppuCycle_legal {s : State} (hit : Bool) (h : s.legal = true) : (s.ppuCycle hit).legal = true := by
  rw [← h]
  exact legal_congr rfl rfl ((Ppu.legal_cycle hit (State.legal_ppu h)).trans (State.legal_ppu h).symm) rfl

/-- A read keeps the state legal. -/
theorem memRead_legal {s : State} (a : Addr) (h : s.legal = true) : (memRead a s).2.legal = true := by
  rcases memRead_cases a s with hr | ⟨reg, hr⟩
  · rw [hr]; exact h
  · rw [hr]; exact emit_legal _ h

/-- A block of reads keeps the state legal. -/
theorem readBlock_legal {s : State} (n : Nat) (a : Addr) (h : s.legal = true) : (readBlock n a s).2.legal = true := by
  induction n generalizing a s with
  | zero => exact h
  | succ n ih => exact ih (a + 1) (memRead_legal a h)

/-- A DMA keeps the state legal. -/
theorem spriteDma_legal {s : State} (v : Byte) (h : s.legal = true) : (spriteDma v s).legal = true := by
  have hr := emit_legal (.dma v (readBlock 256 (word16 v 0) s).1) (readBlock_legal 256 (word16 v 0) h)
  rw [← hr]
  unfold spriteDma
  exact legal_congr (charge_mem _ _) (charge_cart _ _) (by rw [charge_ppu]) (charge_picture _ _)

/-- A command to the mapper keeps a legal cartridge legal. -/
theorem Cartridge.legal_writeProgram {c : Cartridge} (a : Addr) (v : Byte) (h : c.legal = true) :
    (c.writeProgram a v).legal = true := by
  obtain ⟨h1, h2, h3, h4, -⟩ := writeProgram_image c a v
  have hsize : (c.writeProgram a v).prgSize = c.prgSize := congrArg (fun n : Byte => 0x4000 * n.toNat) h3
  simp only [Cartridge.legal, Bool.and_eq_true] at h ⊢
  simp only [h1, h2, h4, hsize]
  exact ⟨h.1, writeProgram_legal c a v h.2⟩

/-- A write leaves a legal PPU legal. -/
theorem memWrite_ppu_legal {s : State} (a : Addr) (v : Byte) (h : s.legal = true) :
    (memWrite a v s).ppu.legal = true := by
  have hp := State.legal_ppu h
  unfold memWrite
  split
  case h_2 r _ => exact State.legal_ppu (s := s.emit (.write r v)) (emit_legal _ h)
  case h_3 => exact State.legal_ppu (emit_legal _ h)
  case h_4 => exact State.legal_ppu (spriteDma_legal v (emit_legal _ h))
  case h_6 => split <;> exact hp
  all_goals exact hp

/-- A write leaves the PictureBus's memories in canonical form. -/
theorem memWrite_picture_legal {s : State} (a : Addr) (v : Byte) (h : s.legal = true) :
    (memWrite a v s).picture.legal = true := by
  have hg := State.legal_picture h
  rcases memWrite_picture a v s with hp | ⟨-, hp⟩ <;> rw [hp]
  · exact hg
  · exact Picture.legal_writeCell _ v hg

/-- A write keeps the state legal. -/
theorem memWrite_legal {s : State} (a : Addr) (v : Byte) (h : s.legal = true) : (memWrite a v s).legal = true := by
  have hppu := memWrite_ppu_legal a v h
  have hpic := memWrite_picture_legal a v h
  simp only [State.legal, Bool.and_eq_true] at h ⊢
  obtain ⟨⟨⟨⟨hwf, hcells⟩, hcart⟩, -⟩, -⟩ := h
  refine ⟨⟨⟨?_, ?_⟩, hppu⟩, hpic⟩
  · rcases memWrite_mem a v s with hm | ⟨k, hk, hm⟩
    · rw [hm]; exact ⟨hwf, hcells⟩
    · rw [hm]
      refine ⟨Memory.wf_write k v hwf, Memory.all_write isStorageCell s.mem k v hcells ?_⟩
      rcases hk with hk | hk
      · have := ram_cell_lt a k hk
        simp [isStorageCell, this]
      · have := extRam_cell_range a k hk
        simp [isStorageCell, this.1, this.2]
  · rcases memWrite_cart a v s with hc | ⟨p, -, hc⟩
    · rw [hc]; exact hcart
    · rw [hc]
      cases hs : s.cart with
      | none => rfl
      | some c =>
        rw [hs] at hcart
        exact Cartridge.legal_writeProgram p v hcart

/-- A push keeps the state legal. -/
theorem push_legal {s : State} (v : Byte) (h : s.legal = true) : (push v s).legal = true := by
  have := memWrite_legal (stackAddr s.sp) v h
  rw [← this]
  exact legal_congr rfl rfl rfl rfl

/-- An interrupt entry keeps the state legal. -/
theorem interruptEntry_legal {s : State} (vector : Addr) (b : Bool) (h : s.legal = true) :
    (interruptEntry vector b s).legal = true := by
  have := push_legal (s.flags.pack b) (push_legal (loByte s.pc) (push_legal (hiByte s.pc) h))
  rw [← this]
  exact legal_congr rfl rfl rfl rfl

/-- Fetching an instruction changes PC and the devices' record only. -/
theorem fetchBytes_legal {s : State} (n : Nat) (h : s.legal = true) : (fetchBytes n s).2.legal = true := by
  induction n generalizing s with
  | zero => exact h
  | succ n ih =>
    refine ih ?_
    rw [← memRead_legal s.pc h]
    exact legal_congr rfl rfl rfl rfl

end Sys2Proof.Machine
end

