-- ==== Sys2Proof/Laws/PerInstr.lean ====
section
/-! SUPPORT. The per-instruction family EncodeLength (LAWS.json): a well-formed instruction's encoding is one opcode byte
and its operand bytes (spec 30_encoding.md R90), one lemma per constructor. -/

namespace Sys2Proof.Laws.EncodeLength

/-- A well-formed instruction is encoded in one byte more than it has operand bytes. -/
def Statement (i : Instr) : Prop := i.wf = true → (encode i).length = i.operandBytes + 1

theorem lda (o : Src) : Statement (.lda o) := by
  rcases o with v | m
  · intro _; rfl
  · cases m <;> intro h <;> first | rfl | cases h

theorem ldx (o : Src) : Statement (.ldx o) := by
  rcases o with v | m
  · intro _; rfl
  · cases m <;> intro h <;> first | rfl | cases h

theorem ldy (o : Src) : Statement (.ldy o) := by
  rcases o with v | m
  · intro _; rfl
  · cases m <;> intro h <;> first | rfl | cases h

theorem sta (m : Mem) : Statement (.sta m) := by
  cases m <;> intro h <;> first | rfl | cases h

theorem stx (m : Mem) : Statement (.stx m) := by
  cases m <;> intro h <;> first | rfl | cases h

theorem sty (m : Mem) : Statement (.sty m) := by
  cases m <;> intro h <;> first | rfl | cases h

theorem tax : Statement .tax := fun _ => rfl

theorem tay : Statement .tay := fun _ => rfl

theorem txa : Statement .txa := fun _ => rfl

theorem tya : Statement .tya := fun _ => rfl

theorem tsx : Statement .tsx := fun _ => rfl

theorem txs : Statement .txs := fun _ => rfl

theorem pha : Statement .pha := fun _ => rfl

theorem php : Statement .php := fun _ => rfl

theorem pla : Statement .pla := fun _ => rfl

theorem plp : Statement .plp := fun _ => rfl

theorem adc (o : Src) : Statement (.adc o) := by
  rcases o with v | m
  · intro _; rfl
  · cases m <;> intro h <;> first | rfl | cases h

theorem sbc (o : Src) : Statement (.sbc o) := by
  rcases o with v | m
  · intro _; rfl
  · cases m <;> intro h <;> first | rfl | cases h

theorem cmp (o : Src) : Statement (.cmp o) := by
  rcases o with v | m
  · intro _; rfl
  · cases m <;> intro h <;> first | rfl | cases h

theorem cpx (o : Src) : Statement (.cpx o) := by
  rcases o with v | m
  · intro _; rfl
  · cases m <;> intro h <;> first | rfl | cases h

theorem cpy (o : Src) : Statement (.cpy o) := by
  rcases o with v | m
  · intro _; rfl
  · cases m <;> intro h <;> first | rfl | cases h

theorem inc (m : Mem) : Statement (.inc m) := by
  cases m <;> intro h <;> first | rfl | cases h

theorem inx : Statement .inx := fun _ => rfl

theorem iny : Statement .iny := fun _ => rfl

theorem dec (m : Mem) : Statement (.dec m) := by
  cases m <;> intro h <;> first | rfl | cases h

theorem dex : Statement .dex := fun _ => rfl

theorem dey : Statement .dey := fun _ => rfl

theorem and (o : Src) : Statement (.and o) := by
  rcases o with v | m
  · intro _; rfl
  · cases m <;> intro h <;> first | rfl | cases h

theorem ora (o : Src) : Statement (.ora o) := by
  rcases o with v | m
  · intro _; rfl
  · cases m <;> intro h <;> first | rfl | cases h

theorem eor (o : Src) : Statement (.eor o) := by
  rcases o with v | m
  · intro _; rfl
  · cases m <;> intro h <;> first | rfl | cases h

theorem bit (m : Mem) : Statement (.bit m) := by
  cases m <;> intro h <;> first | rfl | cases h

theorem asl (o : Shf) : Statement (.asl o) := by
  rcases o with _ | m
  · intro _; rfl
  · cases m <;> intro h <;> first | rfl | cases h

theorem lsr (o : Shf) : Statement (.lsr o) := by
  rcases o with _ | m
  · intro _; rfl
  · cases m <;> intro h <;> first | rfl | cases h

theorem rol (o : Shf) : Statement (.rol o) := by
  rcases o with _ | m
  · intro _; rfl
  · cases m <;> intro h <;> first | rfl | cases h

theorem ror (o : Shf) : Statement (.ror o) := by
  rcases o with _ | m
  · intro _; rfl
  · cases m <;> intro h <;> first | rfl | cases h

theorem jmp (t : Target) : Statement (.jmp t) := by
  cases t <;> intro _ <;> rfl

theorem jsr (target : Addr) : Statement (.jsr target) := fun _ => rfl

theorem rts : Statement .rts := fun _ => rfl

theorem bcc (d : Byte) : Statement (.bcc d) := fun _ => rfl

theorem bcs (d : Byte) : Statement (.bcs d) := fun _ => rfl

theorem beq (d : Byte) : Statement (.beq d) := fun _ => rfl

theorem bne (d : Byte) : Statement (.bne d) := fun _ => rfl

theorem bmi (d : Byte) : Statement (.bmi d) := fun _ => rfl

theorem bpl (d : Byte) : Statement (.bpl d) := fun _ => rfl

theorem bvc (d : Byte) : Statement (.bvc d) := fun _ => rfl

theorem bvs (d : Byte) : Statement (.bvs d) := fun _ => rfl

theorem clc : Statement .clc := fun _ => rfl

theorem sec : Statement .sec := fun _ => rfl

theorem cli : Statement .cli := fun _ => rfl

theorem sei : Statement .sei := fun _ => rfl

theorem clv : Statement .clv := fun _ => rfl

theorem cld : Statement .cld := fun _ => rfl

theorem sed : Statement .sed := fun _ => rfl

theorem nop : Statement .nop := fun _ => rfl

theorem brk : Statement .brk := fun _ => rfl

theorem rti : Statement .rti := fun _ => rfl

theorem illegal (op : Byte) : Statement (.illegal op) := by
  intro h
  have h' : isIllegal op = true := h
  simp [encode, Instr.opcode, h', Instr.bytes, Instr.operandBytes]

end Sys2Proof.Laws.EncodeLength
end

