-- ==== Sys2Proof/Laws/Reset.lean ====
section
/-! SUPPORT. What the machine at reset holds, beside the values `State.reset` writes out. -/

namespace Sys2Proof.Machine

/-- The program counter at reset is the word at the reset vector (70_reset_and_hazards.md R300): 0x0000, since the blank
image lists nothing (log entries 3, 4). -/
theorem reset_pc : State.reset.pc = peek16 State.reset resetVector := by decide

/-- Memory at reset has the canonical form. -/
theorem reset_mem_wf : Memory.wf State.reset.mem = true := by decide

/-- The images in the cartridge at reset have the canonical form. -/
theorem reset_image_wf : State.reset.cart.all (fun c => Memory.wf c.prg && Memory.wf c.chr) = true := by decide

/-- The PictureBus's memories at reset have the canonical form. -/
theorem reset_picture_legal : State.reset.picture.legal = true := by decide

end Sys2Proof.Machine
end

