-- ==== Sys2Proof/Tests/Slice0.lean ====
section
/-! SUPPORT. Tests of the model: ill-formed terms refused, words of the spec's encoding tables decoded, vectors of
95_test_vectors.md run for one step, and a witness for the hypotheses of every statement that has some. Every expected
result is the spec's. -/

namespace Sys2Proof.Tests

open Sys2Proof.Machine Sys2Proof.Claims

/-! ## Ill-formed terms are refused by their checks (30_encoding.md R107) -/

/-- The eight forms of LDA have no zpy; `wfAlu` refuses it for each of the seven instructions. -/
theorem test_wf_alu_refuses_zpy :
    Instr.wf (.lda (.mem (.zpy 0x10))) = false ∧ Instr.wf (.adc (.mem (.zpy 0x10))) = false ∧
    Instr.wf (.sbc (.mem (.zpy 0x10))) = false ∧ Instr.wf (.cmp (.mem (.zpy 0x10))) = false ∧
    Instr.wf (.and (.mem (.zpy 0x10))) = false ∧ Instr.wf (.ora (.mem (.zpy 0x10))) = false ∧
    Instr.wf (.eor (.mem (.zpy 0x10))) = false := by decide

/-- LDX has no X-indexed form, LDY no Y-indexed form. -/
theorem test_wf_index_loads_refuse :
    Instr.wf (.ldx (.mem (.zpx 0x10))) = false ∧ Instr.wf (.ldx (.mem (.absx 0x1234))) = false ∧
    Instr.wf (.ldy (.mem (.zpy 0x10))) = false ∧ Instr.wf (.ldy (.mem (.indy 0x10))) = false := by decide

/-- CPX and CPY have imm, zp and abs only. -/
theorem test_wf_cpxy_refuses : Instr.wf (.cpx (.mem (.zpx 0x10))) = false ∧ Instr.wf (.cpy (.mem (.indy 0x10))) = false := by
  decide

/-- The stores' missing forms. -/
theorem test_wf_stores_refuse :
    Instr.wf (.sta (.zpy 0x10)) = false ∧ Instr.wf (.stx (.zpx 0x10)) = false ∧ Instr.wf (.stx (.absy 0x1234)) = false ∧
    Instr.wf (.sty (.zpy 0x10)) = false ∧ Instr.wf (.sty (.absx 0x1234)) = false := by decide

/-- Read-modify-write instructions have no Y-indexed and no indirect form. -/
theorem test_wf_rmw_refuses :
    Instr.wf (.inc (.absy 0x1234)) = false ∧ Instr.wf (.dec (.indx 0x10)) = false ∧
    Instr.wf (.asl (.mem (.zpy 0x10))) = false ∧ Instr.wf (.ror (.mem (.indy 0x10))) = false := by decide

/-- BIT has zp and abs only. -/
theorem test_wf_bit_refuses : Instr.wf (.bit (.zpx 0x10)) = false := by decide

/-- A documented opcode byte is no illegal opcode, and an ill-formed instruction has no encoding. -/
theorem test_wf_illegal_refuses_nop :
    Instr.wf (.illegal 0xEA) = false ∧ encode (.illegal 0xEA) = [] ∧ encode (.sta (.zpy 0x10)) = [] := by decide

/-- Table R110 has 105 bytes. -/
theorem test_illegal_count : ((List.range 256).filter fun n => isIllegal (BitVec.ofNat 8 n)).length = 105 := by decide

/-! ## Decoding -/

/-- One word of every instruction of 40_load_store_transfer.md, Tables R130-R141: opcode byte, then low byte, then high byte. -/
theorem test_decode_loads_stores_transfers :
    decode [0x8D, 0x44, 0x12] = .ok (.sta (.abs 0x1244), []) ∧
    decode [0x8C, 0x44, 0x12] = .ok (.sty (.abs 0x1244), []) ∧
    decode [0x8E, 0x44, 0x12] = .ok (.stx (.abs 0x1244), []) ∧
    decode [0x8A] = .ok (.txa, []) ∧
    decode [0x98] = .ok (.tya, []) ∧
    decode [0x9A] = .ok (.txs, []) ∧
    decode [0xAC, 0x44, 0x12] = .ok (.ldy (.mem (.abs 0x1244)), []) ∧
    decode [0xAD, 0x44, 0x12] = .ok (.lda (.mem (.abs 0x1244)), []) ∧
    decode [0xAE, 0x44, 0x12] = .ok (.ldx (.mem (.abs 0x1244)), []) ∧
    decode [0xA8] = .ok (.tay, []) ∧
    decode [0xAA] = .ok (.tax, []) ∧
    decode [0xBA] = .ok (.tsx, []) :=
  ⟨rfl, rfl, rfl, rfl, rfl, rfl, rfl, rfl, rfl, rfl, rfl, rfl⟩

/-- One word of every instruction of 41_stack.md, Tables R150-R153: opcode byte, then low byte, then high byte. -/
theorem test_decode_stack :
    decode [0x08] = .ok (.php, []) ∧
    decode [0x28] = .ok (.plp, []) ∧
    decode [0x48] = .ok (.pha, []) ∧
    decode [0x68] = .ok (.pla, []) :=
  ⟨rfl, rfl, rfl, rfl⟩

/-- One word of every instruction of 42_arithmetic.md, Tables R160-R170: opcode byte, then low byte, then high byte. -/
theorem test_decode_arithmetic :
    decode [0x6D, 0x44, 0x12] = .ok (.adc (.mem (.abs 0x1244)), []) ∧
    decode [0x88] = .ok (.dey, []) ∧
    decode [0xCC, 0x44, 0x12] = .ok (.cpy (.mem (.abs 0x1244)), []) ∧
    decode [0xCD, 0x44, 0x12] = .ok (.cmp (.mem (.abs 0x1244)), []) ∧
    decode [0xCE, 0x44, 0x12] = .ok (.dec (.abs 0x1244), []) ∧
    decode [0xC8] = .ok (.iny, []) ∧
    decode [0xCA] = .ok (.dex, []) ∧
    decode [0xEC, 0x44, 0x12] = .ok (.cpx (.mem (.abs 0x1244)), []) ∧
    decode [0xED, 0x44, 0x12] = .ok (.sbc (.mem (.abs 0x1244)), []) ∧
    decode [0xEE, 0x44, 0x12] = .ok (.inc (.abs 0x1244), []) ∧
    decode [0xE8] = .ok (.inx, []) :=
  ⟨rfl, rfl, rfl, rfl, rfl, rfl, rfl, rfl, rfl, rfl, rfl⟩

/-- One word of every instruction of 43_logic_shift.md, Tables R180-R187: opcode byte, then low byte, then high byte. -/
theorem test_decode_logic_shifts :
    decode [0x0D, 0x44, 0x12] = .ok (.ora (.mem (.abs 0x1244)), []) ∧
    decode [0x0E, 0x44, 0x12] = .ok (.asl (.mem (.abs 0x1244)), []) ∧
    decode [0x2D, 0x44, 0x12] = .ok (.and (.mem (.abs 0x1244)), []) ∧
    decode [0x2C, 0x44, 0x12] = .ok (.bit (.abs 0x1244), []) ∧
    decode [0x2E, 0x44, 0x12] = .ok (.rol (.mem (.abs 0x1244)), []) ∧
    decode [0x4D, 0x44, 0x12] = .ok (.eor (.mem (.abs 0x1244)), []) ∧
    decode [0x4E, 0x44, 0x12] = .ok (.lsr (.mem (.abs 0x1244)), []) ∧
    decode [0x6E, 0x44, 0x12] = .ok (.ror (.mem (.abs 0x1244)), []) :=
  ⟨rfl, rfl, rfl, rfl, rfl, rfl, rfl, rfl⟩

/-- One word of every instruction of 44_control_flow.md, Tables R200-R211: opcode byte, then low byte, then high byte. -/
theorem test_decode_control_flow :
    decode [0x10, 0x44] = .ok (.bpl 0x44, []) ∧
    decode [0x20, 0x44, 0x12] = .ok (.jsr 0x1244, []) ∧
    decode [0x30, 0x44] = .ok (.bmi 0x44, []) ∧
    decode [0x4C, 0x44, 0x12] = .ok (.jmp (.abs 0x1244), []) ∧
    decode [0x6C, 0x44, 0x12] = .ok (.jmp (.ind 0x1244), []) ∧
    decode [0x50, 0x44] = .ok (.bvc 0x44, []) ∧
    decode [0x60] = .ok (.rts, []) ∧
    decode [0x70, 0x44] = .ok (.bvs 0x44, []) ∧
    decode [0x90, 0x44] = .ok (.bcc 0x44, []) ∧
    decode [0xB0, 0x44] = .ok (.bcs 0x44, []) ∧
    decode [0xD0, 0x44] = .ok (.bne 0x44, []) ∧
    decode [0xF0, 0x44] = .ok (.beq 0x44, []) :=
  ⟨rfl, rfl, rfl, rfl, rfl, rfl, rfl, rfl, rfl, rfl, rfl, rfl⟩

/-- One word of every instruction of 45_flags_system.md, Tables R220-R229: opcode byte, then low byte, then high byte. -/
theorem test_decode_flags_system :
    decode [0x00] = .ok (.brk, []) ∧
    decode [0x18] = .ok (.clc, []) ∧
    decode [0x38] = .ok (.sec, []) ∧
    decode [0x40] = .ok (.rti, []) ∧
    decode [0x58] = .ok (.cli, []) ∧
    decode [0x78] = .ok (.sei, []) ∧
    decode [0xB8] = .ok (.clv, []) ∧
    decode [0xD8] = .ok (.cld, []) ∧
    decode [0xEA] = .ok (.nop, []) ∧
    decode [0xF8] = .ok (.sed, []) :=
  ⟨rfl, rfl, rfl, rfl, rfl, rfl, rfl, rfl, rfl, rfl⟩

/-- Bytes that decode as illegal opcodes of one byte (95_test_vectors.md section 3). -/
theorem test_decode_illegal :
    decode [0x02] = .ok (.illegal 0x02, []) ∧ decode [0xEB, 0x01] = .ok (.illegal 0xEB, [0x01]) ∧
    decode [0xFF] = .ok (.illegal 0xFF, []) := ⟨rfl, rfl, rfl⟩

/-- What does not decode: no byte at all, an opcode without its operand bytes. -/
theorem test_decode_errors :
    decode [] = .error .noOpcode ∧ decode [0xAD, 0x00] = .error (.missingOperand 0xAD) := ⟨rfl, rfl⟩

/-- The table's numbering: the first byte is bits 7:0. -/
theorem test_decodeTableWord :
    decodeTableWord 24 0x12446C = some (.jmp (.ind 0x1244)) ∧ decodeTableWord 8 0xEA = some .nop ∧
    decodeTableWord 16 0x44A9 = some (.lda (.imm 0x44)) := by decide

/-! ## One step (95_test_vectors.md section 2) -/

/-- The vectors' default start state: PC 0x8000, SP 0xFD, every flag and register 0. -/
def start : State :=
  { State.reset with
    pc := 0x8000
    flags := { c := false, z := false, i := false, d := false, v := false, n := false } }

/-- Bytes placed at increasing addresses. -/
def put : Nat → List Byte → State → State
  | _, [], s => s
  | a, v :: vs, s => put (a + 1) vs (s.placeByte (BitVec.ofNat 16 a) v)

/-- The vectors' interrupt vectors: NMI 0xC000, IRQ 0xD000. -/
def vectors (s : State) : State := put 0xFFFA [0x00, 0xC0, 0x00, 0x80, 0x00, 0xD0] s

/-- The step answers a next state of which `p` holds. -/
def after (s : State) (p : State → Bool) : Bool :=
  match step s with
  | .next t => p t
  | .fault _ => false
  | .refused _ => false

/-- V2: LDA #$80 sets N. -/
theorem test_lda_imm :
    after (put 0x8000 [0xA9, 0x80] start)
      (fun t => t.a == 0x80 && t.pc == 0x8002 && t.flags.n && !t.flags.z && t.cycles == 2) = true := by
  decide

/-- V4: LDA $F0,X stays in page 0. -/
theorem test_lda_zpx_wraps :
    after (put 0x8000 [0xB5, 0xF0] (put 0x0010 [0x42] (put 0x0110 [0x99] { start with x := 0x20 })))
      (fun t => t.a == 0x42 && t.cycles == 4) = true := by
  decide

/-- V8: the pointer of LDA ($FE,X) wraps in page 0. -/
theorem test_lda_indx_pointer_wraps :
    after (put 0x8000 [0xA1, 0xFE] (put 0x0000 [0x12] (put 0x00FF [0x34] (put 0x1234 [0x77] { start with x := 0x01 }))))
      (fun t => t.a == 0x77 && t.cycles == 6) = true := by
  decide

/-- V12: LDX $10,Y. -/
theorem test_ldx_zpy :
    after (put 0x8000 [0xB6, 0x10] (put 0x000F [0x80] { start with y := 0xFF }))
      (fun t => t.x == 0x80 && t.flags.n && t.cycles == 4) = true := by
  decide

/-- V13: LDY $1234,X pays the page crossing. -/
theorem test_ldy_absx_crosses :
    after (put 0x8000 [0xBC, 0x34, 0x12] (put 0x1300 [0x01] { start with x := 0xCC }))
      (fun t => t.y == 0x01 && t.cycles == 5) = true := by
  decide

/-- V14: STA $0201,X costs 5 whether or not it crosses. -/
theorem test_sta_absx_fixed_cost :
    after (put 0x8000 [0x9D, 0x01, 0x02] { start with a := 0xAB, x := 0xFF })
      (fun t => peek t 0x0300 == 0xAB && t.cycles == 5 && t.flags == start.flags) = true := by
  decide

/-- V16: STX $10,Y touches no flag. -/
theorem test_stx_zpy :
    after (put 0x8000 [0x96, 0x10] { start with x := 0x5A, y := 0x02, flags := { c := false, z := true, i := false, d := false, v := false, n := false } })
      (fun t => peek t 0x0012 == 0x5A && t.flags.z && t.cycles == 4) = true := by
  decide

/-- V17: STY $0300 of 0x00. -/
theorem test_sty_abs :
    after (put 0x8000 [0x8C, 0x00, 0x03] { start with flags := { c := false, z := false, i := false, d := false, v := false, n := true } })
      (fun t => peek t 0x0300 == 0x00 && t.flags.n && !t.flags.z && t.pc == 0x8003) = true := by
  decide

/-- V18: TAX. -/
theorem test_tax :
    after (put 0x8000 [0xAA] { start with a := 0x80 })
      (fun t => t.x == 0x80 && t.flags.n && t.cycles == 2) = true := by
  decide

/-- TAY (R137): Y takes A. -/
theorem test_tay :
    after (put 0x8000 [0xA8] { start with a := 0x01, y := 0x77 })
      (fun t => t.y == 0x01 && t.a == 0x01 && !t.flags.n && !t.flags.z) = true := by
  decide

/-- TXA (R138): A takes X. -/
theorem test_txa :
    after (put 0x8000 [0x8A] { start with a := 0x01, x := 0x80 })
      (fun t => t.a == 0x80 && t.x == 0x80 && t.flags.n) = true := by
  decide

/-- V19: TYA of 0x00 sets Z. -/
theorem test_tya :
    after (put 0x8000 [0x98] { start with a := 0x11 })
      (fun t => t.a == 0x00 && t.flags.z) = true := by
  decide

/-- V20: TSX sets N. -/
theorem test_tsx :
    after (put 0x8000 [0xBA] start)
      (fun t => t.x == 0xFD && t.flags.n) = true := by
  decide

/-- V21: TXS of 0x00 leaves N and Z. -/
theorem test_txs_no_flags :
    after (put 0x8000 [0x9A] { start with flags := { c := false, z := false, i := false, d := false, v := false, n := true } })
      (fun t => t.sp == 0x00 && t.flags.n && !t.flags.z) = true := by
  decide

/-- V31: PHA at SP 0x00. -/
theorem test_pha_wraps :
    after (put 0x8000 [0x48] { start with a := 0x42, sp := 0x00 })
      (fun t => t.sp == 0xFF && peek t 0x0100 == 0x42 && t.cycles == 3) = true := by
  decide

/-- V32: PHP with every flag 0 pushes 0x30. -/
theorem test_php_sets_bits_4_and_5 :
    after (put 0x8000 [0x08] start)
      (fun t => peek t 0x01FD == 0x30 && t.sp == 0xFC) = true := by
  decide

/-- V35: PLA at SP 0xFF. -/
theorem test_pla_wraps :
    after (put 0x8000 [0x68] (put 0x0100 [0x80] { start with sp := 0xFF }))
      (fun t => t.a == 0x80 && t.sp == 0x00 && t.flags.n && t.cycles == 4) = true := by
  decide

/-- V37: PLP of 0x30 clears all six flags. -/
theorem test_plp_ignores_bits_4_and_5 :
    after (put 0x8000 [0x28] (put 0x01FD [0x30] { start with sp := 0xFC, flags := { c := true, z := false, i := false, d := false, v := false, n := true } }))
      (fun t => t.flags == start.flags && t.sp == 0xFD) = true := by
  decide

/-- V40, the document's own example: ADC #$50 of 0x50. -/
theorem test_adc_signed_overflow :
    after (put 0x8000 [0x69, 0x50] { start with a := 0x50 })
      (fun t => t.a == 0xA0 && t.flags.v && !t.flags.c && t.flags.n && !t.flags.z) = true := by
  decide

/-- V83: ADC $10 with D and carry is binary. -/
theorem test_adc_ignores_decimal :
    after (put 0x8000 [0x65, 0x10] (put 0x0010 [0x01] { start with a := 0x99, flags := { c := true, z := false, i := false, d := true, v := false, n := false } }))
      (fun t => t.a == 0x9B && !t.flags.c && t.flags.d && t.flags.n) = true := by
  decide

/-- V55: SBC #$B0 from 0x50. -/
theorem test_sbc_overflow :
    after (put 0x8000 [0xE9, 0xB0] { start with a := 0x50, flags := { c := true, z := false, i := false, d := false, v := false, n := false } })
      (fun t => t.a == 0xA0 && !t.flags.c && t.flags.v && t.flags.n) = true := by
  decide

/-- V82: SBC #$40 from 0x40 with a borrow. -/
theorem test_sbc_borrow_in :
    after (put 0x8000 [0xE9, 0x40] { start with a := 0x40 })
      (fun t => t.a == 0xFF && !t.flags.c && !t.flags.v && t.flags.n && !t.flags.z) = true := by
  decide

/-- V68: CMP #$41 with 0x40, V kept. -/
theorem test_cmp_less :
    after (put 0x8000 [0xC9, 0x41] { start with a := 0x40, flags := { c := false, z := false, i := false, d := false, v := true, n := false } })
      (fun t => t.a == 0x40 && t.flags.n && t.flags.v && !t.flags.z && !t.flags.c) = true := by
  decide

/-- V72: CPX $10. -/
theorem test_cpx_zp :
    after (put 0x8000 [0xE4, 0x10] (put 0x0010 [0x20] { start with x := 0x10 }))
      (fun t => t.x == 0x10 && t.flags.n && !t.flags.c && t.cycles == 3) = true := by
  decide

/-- V73: CPY #$00 with 0x00. -/
theorem test_cpy_equal :
    after (put 0x8000 [0xC0, 0x00] start)
      (fun t => t.flags.z && t.flags.c && !t.flags.n) = true := by
  decide

/-- V74: INC $10 of 0xFF leaves C. -/
theorem test_inc_wraps :
    after (put 0x8000 [0xE6, 0x10] (put 0x0010 [0xFF] { start with flags := { c := true, z := false, i := false, d := false, v := false, n := false } }))
      (fun t => peek t 0x0010 == 0x00 && t.flags.z && t.flags.c && t.cycles == 5) = true := by
  decide

/-- V76: DEC $10 of 0x00. -/
theorem test_dec_wraps :
    after (put 0x8000 [0xC6, 0x10] start)
      (fun t => peek t 0x0010 == 0xFF && t.flags.n && !t.flags.c) = true := by
  decide

/-- V77: INX of 0xFF. -/
theorem test_inx_wraps :
    after (put 0x8000 [0xE8] { start with x := 0xFF })
      (fun t => t.x == 0x00 && t.flags.z && !t.flags.c) = true := by
  decide

/-- V78: INY of 0x7F. -/
theorem test_iny :
    after (put 0x8000 [0xC8] { start with y := 0x7F })
      (fun t => t.y == 0x80 && t.flags.n && !t.flags.v) = true := by
  decide

/-- V79: DEX of 0x01. -/
theorem test_dex :
    after (put 0x8000 [0xCA] { start with x := 0x01 })
      (fun t => t.x == 0x00 && t.flags.z) = true := by
  decide

/-- V80: DEY of 0x00. -/
theorem test_dey_wraps :
    after (put 0x8000 [0x88] start)
      (fun t => t.y == 0xFF && t.flags.n) = true := by
  decide

/-- V90: AND #$0F of 0xF0. -/
theorem test_and_imm :
    after (put 0x8000 [0x29, 0x0F] { start with a := 0xF0 })
      (fun t => t.a == 0x00 && t.flags.z) = true := by
  decide

/-- V93: ORA ($10,X). -/
theorem test_ora_indx :
    after (put 0x8000 [0x01, 0x10] (put 0x0012 [0x00, 0x03] (put 0x0300 [0x82] { start with a := 0x01, x := 0x02 })))
      (fun t => t.a == 0x83 && t.flags.n && t.cycles == 6) = true := by
  decide

/-- V95: EOR $0301,Y crosses a page. -/
theorem test_eor_absy_crosses :
    after (put 0x8000 [0x59, 0x01, 0x03] (put 0x0400 [0xF0] { start with a := 0x0F, y := 0xFF }))
      (fun t => t.a == 0xFF && t.flags.n && t.cycles == 5) = true := by
  decide

/-- V96: BIT $10 takes Z from A and m, N and V from m. -/
theorem test_bit_flags_from_memory :
    after (put 0x8000 [0x24, 0x10] (put 0x0010 [0xC0] { start with a := 0x01 }))
      (fun t => t.a == 0x01 && t.flags.n && t.flags.v && t.flags.z) = true := by
  decide

/-- V98: ASL A of 0x80. -/
theorem test_asl_acc :
    after (put 0x8000 [0x0A] { start with a := 0x80 })
      (fun t => t.a == 0x00 && t.flags.c && t.flags.z && t.cycles == 2) = true := by
  decide

/-- V99: ASL $10 of 0x41 with C set. -/
theorem test_asl_ignores_carry_in :
    after (put 0x8000 [0x06, 0x10] (put 0x0010 [0x41] { start with flags := { c := true, z := false, i := false, d := false, v := false, n := false } }))
      (fun t => peek t 0x0010 == 0x82 && !t.flags.c && t.flags.n) = true := by
  decide

/-- V101: LSR $0300,X. -/
theorem test_lsr_absx :
    after (put 0x8000 [0x5E, 0x00, 0x03] (put 0x0301 [0xFE] { start with x := 0x01 }))
      (fun t => peek t 0x0301 == 0x7F && !t.flags.c && t.cycles == 7) = true := by
  decide

/-- V103: ROL $10 of 0x7F with C set. -/
theorem test_rol_carries_in :
    after (put 0x8000 [0x26, 0x10] (put 0x0010 [0x7F] { start with flags := { c := true, z := false, i := false, d := false, v := false, n := false } }))
      (fun t => peek t 0x0010 == 0xFF && !t.flags.c && t.flags.n) = true := by
  decide

/-- V105: ROR $10,X of 0x02 with C set. -/
theorem test_ror_carries_in :
    after (put 0x8000 [0x76, 0x10] (put 0x0011 [0x02] { start with x := 0x01, flags := { c := true, z := false, i := false, d := false, v := false, n := false } }))
      (fun t => peek t 0x0011 == 0x81 && !t.flags.c && t.flags.n && t.cycles == 6) = true := by
  decide

/-- V110: JMP $9000. -/
theorem test_jmp_abs :
    after (put 0x8000 [0x4C, 0x00, 0x90] start)
      (fun t => t.pc == 0x9000 && t.cycles == 3) = true := by
  decide

/-- V111: JMP ($02FF) reads its high byte from 0x0200. -/
theorem test_jmp_ind_page_wrap :
    after (put 0x8000 [0x6C, 0xFF, 0x02] (put 0x0200 [0x80] (put 0x02FF [0x40, 0x99] start)))
      (fun t => t.pc == 0x8040 && t.cycles == 5) = true := by
  decide

/-- V114: JSR at 0x80FE. -/
theorem test_jsr :
    after (put 0x80FE [0x20, 0x00, 0x90] { start with pc := 0x80FE })
      (fun t => t.pc == 0x9000 && t.sp == 0xFB && peek t 0x01FD == 0x81 && peek t 0x01FC == 0x00 && t.cycles == 6) = true := by
  decide

/-- V116: RTS of 0xFFFF. -/
theorem test_rts_wraps :
    after (put 0x8000 [0x60] (put 0x01FC [0xFF, 0xFF] { start with sp := 0xFB }))
      (fun t => t.pc == 0x0000 && t.sp == 0xFD) = true := by
  decide

/-- V117: BNE with Z set. -/
theorem test_bne_not_taken :
    after (put 0x8000 [0xD0, 0x03] { start with flags := { c := false, z := true, i := false, d := false, v := false, n := false } })
      (fun t => t.pc == 0x8002 && t.cycles == 2) = true := by
  decide

/-- V126: BNE at 0xFFFD. -/
theorem test_bne_wraps_address_space :
    after (put 0xFFFD [0xD0, 0x02] { start with pc := 0xFFFD })
      (fun t => t.pc == 0x0001 && t.cycles == 4) = true := by
  decide

/-- V119: BEQ -2. -/
theorem test_beq_to_itself :
    after (put 0x8000 [0xF0, 0xFE] { start with flags := { c := false, z := true, i := false, d := false, v := false, n := false } })
      (fun t => t.pc == 0x8000 && t.cycles == 3) = true := by
  decide

/-- V120: BCC +0x7F at 0x80F0. -/
theorem test_bcc_crosses :
    after (put 0x80F0 [0x90, 0x7F] { start with pc := 0x80F0 })
      (fun t => t.pc == 0x8171 && t.cycles == 4) = true := by
  decide

/-- V121: BCS -128. -/
theorem test_bcs_backward :
    after (put 0x8000 [0xB0, 0x80] { start with flags := { c := true, z := false, i := false, d := false, v := false, n := false } })
      (fun t => t.pc == 0x7F82 && t.cycles == 4) = true := by
  decide

/-- V122: BMI +1 at 0x80FD. -/
theorem test_bmi_crosses_from_next :
    after (put 0x80FD [0x30, 0x01] { start with pc := 0x80FD, flags := { c := false, z := false, i := false, d := false, v := false, n := true } })
      (fun t => t.pc == 0x8100 && t.cycles == 4) = true := by
  decide

/-- V123: BPL at 0x80FE. -/
theorem test_bpl_same_page_as_next :
    after (put 0x80FE [0x10, 0x10] { start with pc := 0x80FE })
      (fun t => t.pc == 0x8110 && t.cycles == 3) = true := by
  decide

/-- V124: BVC. -/
theorem test_bvc_taken :
    after (put 0x8000 [0x50, 0x10] start)
      (fun t => t.pc == 0x8012 && t.cycles == 3) = true := by
  decide

/-- V125: BVS. -/
theorem test_bvs_not_taken :
    after (put 0x8000 [0x70, 0x10] start)
      (fun t => t.pc == 0x8002 && t.cycles == 2) = true := by
  decide

/-- V130: CLC. -/
theorem test_clc :
    after (put 0x8000 [0x18] { start with flags := { c := true, z := false, i := false, d := false, v := false, n := false } })
      (fun t => !t.flags.c) = true := by
  decide

/-- V131: SEC. -/
theorem test_sec :
    after (put 0x8000 [0x38] start)
      (fun t => t.flags.c) = true := by
  decide

/-- V132: CLI. -/
theorem test_cli :
    after (put 0x8000 [0x58] { start with flags := { c := false, z := false, i := true, d := false, v := false, n := false } })
      (fun t => !t.flags.i) = true := by
  decide

/-- V133: SEI. -/
theorem test_sei :
    after (put 0x8000 [0x78] start)
      (fun t => t.flags.i) = true := by
  decide

/-- V134: CLV. -/
theorem test_clv :
    after (put 0x8000 [0xB8] { start with flags := { c := false, z := false, i := false, d := false, v := true, n := false } })
      (fun t => !t.flags.v) = true := by
  decide

/-- V135: CLD. -/
theorem test_cld :
    after (put 0x8000 [0xD8] { start with flags := { c := false, z := false, i := false, d := true, v := false, n := false } })
      (fun t => !t.flags.d) = true := by
  decide

/-- V136: SED. -/
theorem test_sed :
    after (put 0x8000 [0xF8] start)
      (fun t => t.flags.d) = true := by
  decide

/-- V137: NOP. -/
theorem test_nop :
    after (put 0x8000 [0xEA] { start with a := 0x12, flags := { c := false, z := false, i := false, d := false, v := false, n := true } })
      (fun t => t.a == 0x12 && t.pc == 0x8001 && t.flags.n && t.cycles == 2) = true := by
  decide

/-- V138: BRK pushes its address plus 2 and the flags with bit 4. -/
theorem test_brk :
    after (put 0x8000 [0x00, 0xEA] (vectors { start with flags := { c := true, z := false, i := false, d := false, v := false, n := false } }))
      (fun t => t.pc == 0xD000 && t.sp == 0xFA && peek t 0x01FD == 0x80 && peek t 0x01FC == 0x02 && peek t 0x01FB == 0x31 && t.flags.i && t.cycles == 7) = true := by
  decide

/-- V140: RTI. -/
theorem test_rti :
    after (put 0x9000 [0x40] (put 0x01FB [0x31, 0x02, 0x80] { start with pc := 0x9000, sp := 0xFA, flags := { c := false, z := false, i := true, d := false, v := false, n := false } }))
      (fun t => t.pc == 0x8002 && t.sp == 0xFD && t.flags.c && !t.flags.i && t.cycles == 6) = true := by
  decide

/-- V142: the illegal opcode 0x02 is one byte and one cycle. -/
theorem test_illegal :
    after (put 0x8000 [0x02, 0xEA] { start with a := 0x12 })
      (fun t => t.a == 0x12 && t.pc == 0x8001 && t.cycles == 1) = true := by
  decide

/-- V150: an NMI instead of the instruction at PC. -/
theorem test_nmi_delivered :
    after (put 0x8123 [0xA9, 0x01] (vectors { start with pc := 0x8123, nmiPending := true, flags := { c := true, z := false, i := false, d := false, v := false, n := true } }))
      (fun t => t.pc == 0xC000 && t.a == 0x00 && t.sp == 0xFA && peek t 0x01FD == 0x81 && peek t 0x01FC == 0x23 && peek t 0x01FB == 0xA1 && t.flags.i && !t.nmiPending && t.cycles == 7) = true := by
  decide

/-- V153: an IRQ with I set: the LDA executes. -/
theorem test_irq_masked :
    after (put 0x8000 [0xA9, 0x01] (vectors { start with irqLine := true, flags := { c := false, z := false, i := true, d := false, v := false, n := false } }))
      (fun t => t.a == 0x01 && t.pc == 0x8002 && t.irqLine) = true := by
  decide

/-- V152: an IRQ with I clear. -/
theorem test_irq_delivered :
    after (put 0x8000 [0xA9, 0x01] (vectors { start with irqLine := true }))
      (fun t => t.pc == 0xD000 && peek t 0x01FB == 0x20 && t.irqLine && t.cycles == 7) = true := by
  decide

/-- V154: NMI and IRQ together. -/
theorem test_nmi_before_irq :
    after (vectors { start with nmiPending := true, irqLine := true })
      (fun t => t.pc == 0xC000 && !t.nmiPending && t.irqLine) = true := by
  decide

/-- V157: an entry at SP 0x01. -/
theorem test_entry_wraps_stack :
    after (vectors { start with sp := 0x01, nmiPending := true })
      (fun t => t.sp == 0xFE && peek t 0x0101 == 0x80 && peek t 0x0100 == 0x00 && peek t 0x01FF == 0x20) = true := by
  decide

/-- V160: a reset request from any state. -/
theorem test_reset_request :
    after (vectors { start with a := 0xAA, x := 0xBB, y := 0xCC, sp := 0x10, cycles := 999, skip := 3, nmiPending := true, resetReq := true, flags := { c := true, z := true, i := false, d := true, v := true, n := true } })
      (fun t => t.pc == 0x8000 && t.a == 0x00 && t.sp == 0xFD && t.flags.pack false == 0x24 && t.cycles == 0 && !t.nmiPending) = true := by
  decide

set_option maxRecDepth 8000 in
/-- V171: a store to the DMA trigger at an odd count stalls 514 cycles besides its own 4. -/
theorem test_dma_stall : after (put 0x8000 [0x8D, 0x14, 0x40] { start with cycles := 1001 }) (fun t => t.cycles == 1519) = true := by
  decide

/-- A device read costs one event, whatever its mirror (20_memory.md R54): LDA $3FFA reads register 0x2002. -/
theorem test_device_read_is_one_event :
    after (put 0x8000 [0xAD, 0xFA, 0x3F] start) (fun t => t.io == [IoEvent.read 0x2002]) = true := by decide

/-- The per-cycle view of 95_test_vectors.md section 4.2: after one CPU cycle of LDA #$01 its effect is whole and one
cycle is left. -/
theorem test_cpuCycle :
    (match cpuCycle (put 0x8000 [0xA9, 0x01] start) with
      | .next t => t.a == 0x01 && t.pc == 0x8002 && t.skip == 1 && t.cycles == 1
      | _ => false) = true := by decide

/-! ## The next fetch runs the placed word -/

/-- As the first instruction after reset, LDA #$44 runs. -/
theorem test_withFetchWord_lda :
    after (State.reset.withFetchWord 16 0x44A9) (fun t => t.a == 0x44 && t.pc == 0x0002) = true := by decide

/-- As the first instruction after reset, JMP ($0000) runs: it jumps to its own first bytes. -/
theorem test_withFetchWord_jmp :
    after (State.reset.withFetchWord 24 0x00006C) (fun t => t.pc == 0x006C) = true := by decide

/-! ## Witnesses: the hypotheses of each statement can be met together -/

theorem test_witness_DecodeInvertsEncode : Instr.wf (.jmp (.ind 0xFFFF)) = true ∧ Instr.wf (.illegal 0xFF) = true := by
  decide

theorem test_witness_EncodeInvertsDecode : decode [0xB6, 0x44, 0x01] = .ok (.ldx (.mem (.zpy 0x44)), [0x01]) := rfl

theorem test_witness_OpcodeFixesLength :
    decode (0xA9 :: [0x01, 0x02]) = .ok (.lda (.imm 0x01), [0x02]) ∧ decode (0xA9 :: [0x03]) = .ok (.lda (.imm 0x03), []) :=
  ⟨rfl, rfl⟩

theorem test_witness_IllegalOpcodesAreOneByteNoOps : isIllegal 0x02 = true ∧ isIllegal 0xFF = true := by decide

/-- One byte, two bytes and three bytes, the last ending at the top of the address space. -/
theorem test_witness_StepRunsDecodedInstruction :
    State.reset.cart.isSome = true ∧ Undisturbed State.reset ∧
    decode [peek State.reset State.reset.pc, peek State.reset (State.reset.pc + 1), peek State.reset (State.reset.pc + 2)] =
      .ok (.brk, [0x00, 0x00]) ∧
    (∀ k : Nat, k ≤ Instr.operandBytes .brk → isDevice (State.reset.pc + BitVec.ofNat 16 k) = false) ∧
    (∀ k : Nat, k ≤ Instr.operandBytes (.jmp (.abs 0)) → isDevice (0xFFFD + BitVec.ofNat 16 k) = false) :=
  ⟨rfl, ⟨rfl, rfl, Or.inl rfl⟩, rfl, by decide, by decide⟩

/-- Reset, NMI and IRQ, each with its clause's premises. -/
theorem test_witness_BoundaryPriority :
    start.cart.isSome = true ∧ { start with resetReq := true }.resetReq = true ∧
    ({ start with nmiPending := true }.resetReq = false ∧ { start with nmiPending := true }.nmiPending = true) ∧
    ({ start with irqLine := true }.resetReq = false ∧ { start with irqLine := true }.nmiPending = false ∧
      { start with irqLine := true }.irqLine = true ∧ { start with irqLine := true }.flags.i = false) := by decide

theorem test_witness_MaskedIrqIsIgnored :
    State.reset.cart.isSome = true ∧ State.reset.resetReq = false ∧ State.reset.nmiPending = false ∧
    State.reset.flags.i = true := by decide

theorem test_witness_StepAnswersExactlyWithCartridge :
    State.reset.cart.isSome = true ∧ { State.reset with cart := none }.cart = none := by decide

theorem test_witness_ResetLeavesSpecState : isDevice 0x0000 = false ∧ isDevice 0xFFFF = false := by decide

theorem test_witness_InterruptEntrySavesPcAndFlags :
    start.legal = true ∧ 0x8000 ≤ (0xFFFF : Addr).toNat ∧ isDevice 0x0200 = false ∧
    region 0x0200 ≠ region (stackAddr start.sp) ∧ region 0x0200 ≠ region (stackAddr (start.sp - 1)) ∧
    region 0x0200 ≠ region (stackAddr (start.sp - 2)) := by decide

theorem test_witness_RtiUndoesInterruptEntry : { start with sp := 0x01 }.legal = true := by decide

theorem test_witness_PackPLaysOutFlags :
    ({ c := false, z := false, i := true, d := false, v := false, n := false } : Flags) = State.reset.flags := rfl

theorem test_witness_UnpackPUndoesPackP : (0x30 : Byte) &&& 0xCF = 0x00 &&& 0xCF := by decide

theorem test_witness_IndirectJumpWrapsInPage : loByte 0x30FF = 0xFF ∧ loByte 0x3000 ≠ 0xFF := by decide

/-- Each store, at a cell of internal RAM. -/
theorem test_witness_StoresWriteRegisterAtEffectiveAddress :
    (Instr.sta (.abs 0x1FFF) = .sta (.abs 0x1FFF) ∧ start.a = 0x00) ∧ (ea start (.abs 0x1FFF)).toNat < 0x2000 ∧
    start.legal = true := by decide

theorem test_witness_PushesStoreThenDecrement :
    start.legal = true ∧ (Instr.php = .php ∧ start.flags.pack true = 0x30) ∧ (Instr.pha = .pha ∧ start.a = 0x00) ∧
    isDevice 0x0200 = false ∧ region 0x0200 ≠ region (0x0100 ||| start.sp.setWidth 16) := by decide

theorem test_witness_ComparesSetCarryZeroNegative :
    (Instr.cmp (.imm 0x01) = .cmp (.imm 0x01) ∧ start.a = 0x00) ∧ (Instr.cpy (.imm 0xFF) = .cpy (.imm 0xFF) ∧ start.y = 0x00) := by
  decide

theorem test_witness_DecimalFlagHasNoEffect : pushesFlags (.adc (.imm 0x99)) = false ∧ pushesFlags .plp = false := by decide

theorem test_witness_ReadModifyWriteCompletes :
    (Instr.inc (.zp 0x10) = .inc (.zp 0x10) ∧ (0x00 : Byte) = peek (put 0x0010 [0xFF] start) (ea start (.zp 0x10)) + 1) ∧
    (ea start (.abs 0x1FFF)).toNat < 0x2000 ∧ start.legal = true := by decide

theorem test_witness_LogicWritesAAndZN :
    Instr.and (.imm 0x0F) = .and (.imm 0x0F) ∧ (0x00 : Byte) = start.a &&& operandByte start (.imm 0x0F) := by decide

theorem test_witness_AccumulatorShiftsMoveOneBit :
    Instr.ror .acc = .ror .acc ∧ (0x80 : Byte) = BitVec.ofNat 8 ((0x00 : Byte).toNat / 2 + 128 * true.toNat) := by decide

theorem test_witness_JmpGoesToTarget : isDevice 0x02FF = false ∧ isDevice (indirectHiAddr 0x02FF) = false := by decide

theorem test_witness_JsrPushesReturnMinusOne : { start with sp := 0x00 }.legal = true := by decide

theorem test_witness_RtsUndoesJsr : { start with sp := 0x01 }.legal = true := by decide

theorem test_witness_BranchesTestOneFlag :
    (Instr.bcc 0x80 = .bcc 0x80 ∧ true = !start.flags.c) ∧ (Instr.bvs 0x7F = .bvs 0x7F ∧ false = start.flags.v) := by decide

/-- For the frames: an instruction that runs and writes none of what its classifier denies. -/
theorem test_witness_RegistersChangeOnlyByTheirWriters :
    (∃ t : State, exec (.cmp (.imm 0x00)) start = .next t) ∧ writesA (.cmp (.imm 0x00)) = false ∧
    writesX (.cmp (.imm 0x00)) = false ∧ writesY (.cmp (.imm 0x00)) = false ∧ writesSp (.cmp (.imm 0x00)) = false ∧
    writesPc (.cmp (.imm 0x00)) = false := ⟨⟨_, rfl⟩, rfl, rfl, rfl, rfl, rfl⟩

theorem test_witness_FlagsChangeOnlyByTheirWriters :
    (∃ t : State, exec (.sta (.zp 0x10)) start = .next t) ∧ writesC (.sta (.zp 0x10)) = false ∧
    writesZN (.sta (.zp 0x10)) = false ∧ writesI (.sta (.zp 0x10)) = false ∧ writesD (.sta (.zp 0x10)) = false ∧
    writesV (.sta (.zp 0x10)) = false := ⟨⟨_, rfl⟩, rfl, rfl, rfl, rfl, rfl⟩

theorem test_witness_NoInstructionWritesInputs :
    (∃ t : State, exec (.sta (.abs 0x7FFF)) start = .next t) ∧
    ∀ a : Addr, a ∈ storeAddrs start (.sta (.abs 0x7FFF)) → a.toNat < 0x8000 := by
  refine ⟨⟨_, rfl⟩, fun a h => ?_⟩
  have h' : a = 0x7FFF := List.mem_singleton.mp h
  subst h'
  decide

/-- A store to 0x1FFF and a byte elsewhere. -/
theorem test_witness_MemoryChangesOnlyWhereStored :
    (∃ t : State, exec (.sta (.abs 0x1FFF)) start = .next t) ∧ isDevice 0x0000 = false ∧
    ∀ a : Addr, a ∈ storeAddrs start (.sta (.abs 0x1FFF)) → ¬ SamePlace a 0x0000 := by
  refine ⟨⟨_, rfl⟩, rfl, fun a h => ?_⟩
  have h' : a = 0x1FFF := List.mem_singleton.mp h
  subst h'
  unfold SamePlace
  decide

/-- The two clauses at a cell's last mirror, and at an address of another cell. -/
theorem test_witness_RamIsMirroredFourTimes :
    start.legal = true ∧ (0x1FFF : Addr).toNat < 0x2000 ∧ (0x1FFF : Addr).toNat % 0x800 = (0x07FF : Addr).toNat % 0x800 ∧
    isDevice 0x2000 = true ∧ isDevice 0x0000 = false ∧
    ¬ ((0x0000 : Addr).toNat < 0x2000 ∧ (0x1FFF : Addr).toNat % 0x800 = (0x0000 : Addr).toNat % 0x800) := by decide

/-- The windows at their first and last addresses, the two data registers' and another's mirror among them, and the strobe
register beside its neighbours. -/
theorem test_witness_IoAndExtendedRamWindows :
    (0x2000 ≤ (0x3FFF : Addr).toNat ∧ (0x3FFF : Addr).toNat < 0x4000 ∧ (0x3FFC : Addr) &&& 0x0007 = 0x0004 ∧
      (0x3FFF : Addr) &&& 0x0007 = 0x0007 ∧ start.legal = true ∧ (0x3FF8 : Addr) &&& 0x0007 ≠ 0x0004 ∧
      (0x3FF8 : Addr) &&& 0x0007 ≠ 0x0007) ∧
    (0x4000 ≤ (0x4000 : Addr).toNat ∧ (0x4014 : Addr).toNat < 0x4015) ∧
    (0x4000 ≤ (0x4017 : Addr).toNat ∧ (0x4017 : Addr).toNat < 0x4018 ∧ (0x4017 : Addr) ≠ 0x4014 ∧ (0x4017 : Addr) ≠ 0x4016 ∧
      0x4015 ≤ (0x4015 : Addr).toNat) ∧
    (0x4018 ≤ (0x4018 : Addr).toNat ∧ (0x5FFF : Addr).toNat < 0x6000) ∧
    (0x6000 ≤ (0x6000 : Addr).toNat ∧ (0x7FFF : Addr).toNat < 0x8000 ∧
      { start with cart := some { Cartridge.blank with extRam := true } }.hasExtRam = true ∧
      { start with cart := some { Cartridge.blank with extRam := true } }.legal = true) ∧
    start.hasExtRam = false := by decide

/-- Each mapper's clause at the ends of its window. -/
theorem test_witness_ProgramWindowShowsSelectedBanks :
    start.cart = some Cartridge.blank ∧ 0x8000 ≤ (0x8000 : Addr).toNat ∧ 1 ≤ Cartridge.blank.prgBanks.toNat ∧
    Cartridge.blank.mapper = .fixed ∧ Cartridge.blank.prgBanks = 2 ∧ { Cartridge.blank with prgBanks := 1 }.prgBanks = 1 ∧
    { Cartridge.blank with mapper := .switchPrg 0xFF }.mapper = .switchPrg 0xFF ∧ (0xBFFF : Addr).toNat < 0xC000 ∧
    0xC000 ≤ (0xC000 : Addr).toNat ∧ { Cartridge.blank with mapper := .switchChr 3 }.mapper = .switchChr 3 ∧
    (∃ r : ShiftRegs, { Cartridge.blank with mapper := .shiftReg r }.mapper = .shiftReg r) :=
  ⟨rfl, by decide, by decide, rfl, rfl, rfl, rfl, by decide, by decide, rfl,
    ⟨{ shift := [], regs := Config.insertedRegs, fixedLast := false }, rfl⟩⟩

/-- The graphics clauses of that statement: graphics RAM, one bank, and the last of four banks selected. -/
theorem test_witness_graphics_banks :
    Cartridge.blank.chrBanks = 0 ∧ start.legal = true ∧ (∀ r : ShiftRegs, Cartridge.blank.mapper ≠ .shiftReg r) ∧
    1 ≤ { Cartridge.blank with chrBanks := 1 }.chrBanks.toNat ∧
    (3 : BitVec 2).toNat < { Cartridge.blank with mapper := .switchChr 3, chrBanks := 4 }.chrBanks.toNat :=
  ⟨rfl, by decide, (fun _ h => nomatch h), by decide, by decide⟩

/-- Graphics RAM is read back at the address written, and one bank further on, which the single bank of 8 KiB also is
(20_memory.md R70, R71). -/
theorem test_graphics_ram :
    (start.writeGraphics 0x1FFF 0x5A).readGraphics 0x1FFF = 0x5A ∧
    (start.writeGraphics 0x1FFF 0x5A).readGraphics 0x3FFF = 0x5A ∧
    (start.writeGraphics 0x1FFF 0x5A).readGraphics 0x1FFE = 0x00 := by decide

/-- Horizontal mirroring: the top left and top right nametables share storage, the bottom left one does not (R82). -/
theorem test_horizontal_mirroring :
    start.targetCell (.nametable false false 0x10) = start.targetCell (.nametable false true 0x10) ∧
    start.targetCell (.nametable false false 0x10) ≠ start.targetCell (.nametable true false 0x10) := by decide

/-- A strobe write of 0 latches the bitmap the host has written; a later button write does not change what is latched
(60_exceptions.md R264). -/
theorem test_strobe_latches :
    (hostEvent (.buttons .two 0x0F) (memWrite 0x4016 0x00 (hostEvent (.buttons .two 0x81) start))).pads =
      { one := { buttons := 0x00, latched := 0x00 }, two := { buttons := 0x0F, latched := 0x81 } } := by
  simp [hostEvent, memWrite, region, State.writeDevice, State.emit, Pads.press, Pads.strobe, Pads.latch, start,
    State.reset, Pads.initial]

/-- A shift register of four writes and one of three, the three kinds of write, and the two ranges of a dispatch. -/
theorem test_witness_ShiftRegisterMapperDispatchesFifthWrite :
    (∃ (c : Cartridge) (r : ShiftRegs), c.mapper = .shiftReg r ∧ r.shift.length = 4) ∧
    (∃ (c : Cartridge) (r : ShiftRegs), c.mapper = .shiftReg r ∧ r.shift.length < 4) ∧ 0x80 ≤ (0x80 : Byte).toNat ∧
    (0x7F : Byte).toNat < 0x80 ∧ 0x8000 ≤ (0xA000 : Addr).toNat ∧ (0x9FFF : Addr).toNat < 0xA000 ∧
    (∀ c : Cartridge, { start with cart := some c }.cart = some c) :=
  ⟨⟨{ Cartridge.blank with
      mapper := .shiftReg { shift := [0, 1, 0, 1], regs := Config.insertedRegs, fixedLast := false } }, _, rfl, rfl⟩,
    ⟨{ Cartridge.blank with
      mapper := .shiftReg { shift := [0, 1, 0], regs := Config.insertedRegs, fixedLast := false } }, _, rfl, by decide⟩,
    by decide, by decide, by decide, by decide, fun _ => rfl⟩

theorem test_witness_SpriteDmaCopiesPageAndStalls :
    (0x1F : Byte).toNat < 0x20 ∧ 0x40 < (0x41 : Byte).toNat ∧ 0x40 < (0xFF : Byte).toNat := by decide

theorem test_witness_PpuCyclesThroughFourPhases : State.reset.legal = true := by decide

/-- An entry: the PPU at the last dot of the scanline before vertical blank, wherever that is. -/
theorem test_witness_NmiRaisedOnceOnVerticalBlankEntry :
    ∃ s : State, s.ppu.phase ≠ .verticalBlank ∧ (s.ppuCycle false).ppu.phase = .verticalBlank := by
  let line := preRenderLines + 240 + postRenderLines - 1
  have hpost : postRenderLines ≤ 20 - Config.preRenderExtra.val := by
    have := Nat.mod_lt Config.postRenderExtra (show 0 < 20 - Config.preRenderExtra.val by omega)
    unfold postRenderLines
    omega
  have hnext : (line + 1) % 262 = preRenderLines + 240 + postRenderLines := by
    have := Config.preRenderExtra.isLt
    simp only [line, preRenderLines, postRenderLines] at hpost ⊢
    omega
  refine ⟨{ State.reset with ppu := { Ppu.initial with phase := .postRender, scanline := line, dot := 340 } }, by decide, ?_⟩
  have hd := (Config.dotsInScanlinePred 0 line 0x00).isLt
  have hdone : Ppu.lineDone { Ppu.initial with phase := .postRender, scanline := line, dot := 340 } = true := by
    have hle : (Config.dotsInScanlinePred 0 line 0x00).val + 1 ≤ 340 + 1 := by omega
    exact decide_eq_true hle
  have hp : phaseOf (preRenderLines + 240 + postRenderLines) = .verticalBlank := by
    simp [phaseOf]
    omega
  simp [State.ppuCycle, Ppu.cycle, Ppu.latch, Ppu.move, hdone, Ppu.nextLine, hnext, hp]

/-- A cycle of render, with a collision or without: the first scanline of render, whether or not it ends there. -/
theorem test_witness_sprite0_in_render :
    ∃ s : State, s.ppu.phase ≠ .preRender ∧ ∀ hit : Bool, (s.ppuCycle hit).ppu.phase = .render := by
  refine ⟨{ State.reset with ppu := { Ppu.initial with phase := .render, scanline := preRenderLines } }, by decide,
    fun hit => ?_⟩
  have hlt : preRenderLines + 1 < 262 := by
    have := Config.preRenderExtra.isLt
    simp only [preRenderLines]
    omega
  have hp : phaseOf (preRenderLines + 1) = .render := by
    simp [phaseOf]
  simp [State.ppuCycle, Ppu.cycle, Ppu.latch, Ppu.move, Ppu.nextLine, Nat.mod_eq_of_lt hlt, hp]

/-- The last dot of the last scanline: the next cycle enters pre-render. -/
theorem test_witness_enters_pre_render :
    ∃ s : State, s.ppu.phase ≠ .preRender ∧ (s.ppuCycle false).ppu.phase = .preRender := by
  refine ⟨{ State.reset with ppu := { Ppu.initial with phase := .verticalBlank, scanline := 261, dot := 340 } }, by decide, ?_⟩
  have hdone : Ppu.lineDone { Ppu.initial with phase := .verticalBlank, scanline := 261, dot := 340 } = true := by
    have hd := (Config.dotsInScanlinePred 0 261 0x00).isLt
    have hle : (Config.dotsInScanlinePred 0 261 0x00).val + 1 ≤ 340 + 1 := by omega
    exact decide_eq_true hle
  have hp : phaseOf 0 = .preRender := by simp [phaseOf, preRenderLines]
  simp [State.ppuCycle, Ppu.cycle, Ppu.latch, Ppu.move, hdone, Ppu.nextLine, hp]

theorem test_witness_DeserializeReplacesMachine :
    { (Console.mk State.reset 0 0).serialize with a := none, c := none }.a = none := rfl

theorem test_witness_NoStepChangesProgramImage : ∃ t : State, step State.reset = .next t := ⟨_, rfl⟩

theorem test_witness_StepKeepsLegal : State.reset.legal = true ∧ ∃ t : State, step State.reset = .next t :=
  ⟨by decide, _, rfl⟩

theorem test_witness_HostEventsKeepLegal : State.reset.legal = true := by decide

theorem test_witness_StepIsItsCpuCycles :
    State.reset.skip = 0 ∧ State.reset.resetReq = false ∧ ∃ t : State, step State.reset = .next t := ⟨rfl, rfl, _, rfl⟩

/-- With a reset asked for and without, with a sample read and without. -/
theorem test_witness_FrameKeepsClockRatio :
    (Console.mk State.reset 0 0).cpu.cart.isSome = true ∧
    (Console.mk { State.reset with resetReq := true } 0 0).cpu.cart.isSome = true ∧
    (CycleInput.mk (Vector.replicate 3 false) none false).sample = none ∧
    (CycleInput.mk (Vector.replicate 3 false) (some 0xFFFF) true).sample = some 0xFFFF := ⟨rfl, rfl, rfl, rfl⟩

theorem test_witness_RestoreUndoesRunCycles :
    ∃ d : Console, (Emulator.mk (Console.mk State.reset 0 0) none).now.cpu.cart.isSome = true ∧
      runCycles [CycleInput.mk (Vector.replicate 3 false) none false] (Emulator.mk (Console.mk State.reset 0 0) none).backup.now = .next d :=
  ⟨_, rfl, rfl⟩

/-- Bad magic; an id above 3 in the header. -/
theorem test_witness_LoadCartridgeInstallsImageOrNothing :
    ([] : List Byte).take 4 ≠ [0x4E, 0x45, 0x53, 0x1A] ∧
    3 < ((([0x4E, 0x45, 0x53, 0x1A, 0, 0, 0, 0x10] : List Byte).getD 7 0 &&& 0xF0) ||| ((0x40 : Byte) >>> 4)).toNat := by
  decide

/-- A header of `prg` program banks, one graphics bank and mapper id `id` below 16, and more bytes than it announces. -/
def imageOfBanks (prg id : Byte) (tail : List Byte) : List Byte :=
  [0x4E, 0x45, 0x53, 0x1A, prg, 1, id <<< 4, 0, 0, 0, 0, 0, 0, 0, 0, 0] ++ tail

/-- An image of one or of two program banks and one graphics bank of any bytes loads as the fixed-bank variant. -/
theorem test_witness_load_of_fixed_bank (prg : Byte) (h : prg = 1 ∨ prg = 2) :
    ∃ (image : List Byte) (c : Cartridge), Cartridge.ofImage image = some c ∧ c.mapper = .fixed ∧ c.prgBanks = prg ∧
      1 ≤ c.chrBanks.toNat := by
  obtain ⟨tail, ht⟩ : ∃ tail : List Byte, tail.length = 0xA000 := ⟨List.replicate 0xA000 0, List.length_replicate⟩
  refine ⟨imageOfBanks prg 0 tail, ?_⟩
  rcases h with rfl | rfl <;> simp [Cartridge.ofImage, imageMagic, imageOfBanks, ht, Mapper.ofId]

/-- An image with each of the four mapper ids meets the premises of a load. -/
theorem test_witness_load_of_each_mapper (id : Byte) (h : id = 0 ∨ id = 1 ∨ id = 2 ∨ id = 3) :
    ∃ image : List Byte, image.take 4 = [0x4E, 0x45, 0x53, 0x1A] ∧
      ((image.getD 7 0 &&& 0xF0) ||| (image.getD 6 0 >>> 4)).toNat = id.toNat ∧
      16 + 16384 * (image.getD 4 0).toNat + 8192 * (image.getD 5 0).toNat ≤ image.length := by
  obtain ⟨tail, ht⟩ : ∃ tail : List Byte, tail.length = 0xA000 := ⟨List.replicate 0xA000 0, List.length_replicate⟩
  refine ⟨imageOfBanks 2 id tail, rfl, ?_, ?_⟩
  · rcases h with rfl | rfl | rfl | rfl <;> simp [imageOfBanks]
  · simp [imageOfBanks, ht]

end Sys2Proof.Tests
end

section
/-! PROOFS. The flags byte, bit by bit (spec 10_state.md R35, R36). -/

namespace Sys2Proof.Machine

@[simp] theorem bitByte_getElem (b : Bool) (k : Nat) (h : k < 8) : (bitByte b)[k] = (b && decide (k = 0)) := by
  cases b <;> simp [bitByte]

/-- Bits 7 to 0 of the packed byte (R35). -/
theorem pack_bits (f : Flags) (b : Bool) :
    (f.pack b).getLsbD 7 = f.n ∧ (f.pack b).getLsbD 6 = f.v ∧ (f.pack b).getLsbD 5 = true ∧ (f.pack b).getLsbD 4 = b ∧
      (f.pack b).getLsbD 3 = f.d ∧ (f.pack b).getLsbD 2 = f.i ∧ (f.pack b).getLsbD 1 = f.z ∧
      (f.pack b).getLsbD 0 = f.c := by
  simp [Flags.pack]

/-- Only the bits that hold a flag are read (R36): clearing bits 4 and 5 makes no difference. -/
theorem unpack_clear_unused (v : Byte) : Flags.unpack (v &&& 0xCF) = Flags.unpack v := by
  simp [Flags.unpack]

/-- Packing and unpacking gives the flags back, whatever the marker (R35, R36). -/
@[simp] theorem unpack_pack (f : Flags) (b : Bool) : Flags.unpack (f.pack b) = f := by
  obtain ⟨hn, hv, -, -, hd, hi, hz, hc⟩ := pack_bits f b
  simp only [Flags.unpack, hn, hv, hd, hi, hz, hc]

/-- Settles O15, by the bits of `pack_bits`; the example is computed. -/
theorem packPLaysOutFlags : Obligations.PackPLaysOutFlags := by
  refine ⟨pack_bits, ?_⟩
  rintro f rfl
  decide

/-- Settles O16: bytes that agree outside bits 4 and 5 are equal once these are cleared. -/
theorem unpackPUndoesPackP : Obligations.UnpackPUndoesPackP := by
  refine ⟨fun v => rfl, fun v w h => ?_, unpack_pack⟩
  rw [← unpack_clear_unused v, h, unpack_clear_unused w]

end Sys2Proof.Machine
end

section
/-! PROOFS. What the shared operations of the meanings do, said once per operation as a sequence of field updates whose
laws the simp set has (Laws/State, Laws/Bus); what each costs; and what a write leaves alone. -/

namespace Sys2Proof.Machine

open Sys2Proof.Claims

/-- Every instruction answers a next state (60_exceptions.md R241). -/
theorem exec_answers (i : Instr) (s : State) : ∃ t : State, exec i s = .next t := by
  cases i <;> exact ⟨_, rfl⟩

/-! ## Operations -/

@[simp] theorem readSrc_state (o : Src) (s : State) :
    (readSrc s o).2 = { s with io := ioAfterSrc s o, ppu := ppuAfterSrc s o } := by
  rw [readSrc_eq]

@[simp] theorem load_eq (set : Byte → State → State) (o : Src) (s : State) :
    load set o s = ((set (operandByte s o) { s with io := ioAfterSrc s o, ppu := ppuAfterSrc s o }).setZN
      (operandByte s o)).charge (readCost s o) := by
  simp only [load, readSrc_eq]

@[simp] theorem store_eq (v : Byte) (m : Mem) (s : State) :
    store v m s = (memWrite (ea s m) v s).charge (storeCost m) := rfl

@[simp] theorem transfer_eq (set : Byte → State → State) (v : Byte) (s : State) :
    transfer set v s = ((set v s).setZN v).charge 2 := rfl

@[simp] theorem addToA_eq (b : Byte) (s : State) :
    addToA b s = (s.setA (addWithCarry s.a b s.flags.c).value).setFlags
      (s.flags.ofSum (addWithCarry s.a b s.flags.c)) := rfl

@[simp] theorem compareReg_eq (v : Byte) (o : Src) (s : State) :
    compareReg v o s = (State.setFlags (s.flags.ofCompare v (operandByte s o))
      { s with io := ioAfterSrc s o, ppu := ppuAfterSrc s o }).charge (readCost s o) := by
  simp only [compareReg, readSrc_eq]

@[simp] theorem logic_eq (f : Byte → Byte → Byte) (o : Src) (s : State) :
    logic f o s = ((State.setA (f s.a (operandByte s o)) { s with io := ioAfterSrc s o, ppu := ppuAfterSrc s o }).setZN
      (f s.a (operandByte s o))).charge (readCost s o) := by
  simp only [logic, readSrc_eq]

@[simp] theorem modifyMem_eq (f : Byte → Byte) (m : Mem) (s : State) :
    modifyMem f m s = ((memWrite (ea s m) (f (peek s (ea s m))) (memRead (ea s m) s).2).setZN
      (f (peek s (ea s m)))).charge (rmwCost m) := rfl

@[simp] theorem shift_acc_eq (f : Byte → Bool → Byte) (out : Byte → Bool) (s : State) :
    shift f out .acc s = ((s.setA (f s.a s.flags.c)).setFlags
      (s.flags.ofShift (out s.a) (f s.a s.flags.c))).charge 2 := rfl

@[simp] theorem shift_mem_eq (f : Byte → Bool → Byte) (out : Byte → Bool) (m : Mem) (s : State) :
    shift f out (.mem m) s = ((memWrite (ea s m) (f (peek s (ea s m)) s.flags.c) (memRead (ea s m) s).2).setFlags
      (s.flags.ofShift (out (peek s (ea s m))) (f (peek s (ea s m)) s.flags.c))).charge (rmwCost m) := rfl

@[simp] theorem branch_eq (cond : Bool) (d : Byte) (s : State) :
    branch cond d s = (s.setPc (if cond then branchTarget s.pc d else s.pc)).charge
      (branchCost cond s.pc (branchTarget s.pc d)) := rfl

@[simp] theorem push16_eq (w : Addr) (s : State) : push16 w s = push (loByte w) (push (hiByte w) s) := rfl

@[simp] theorem interruptEntry_eq (vector : Addr) (b : Bool) (s : State) :
    interruptEntry vector b s =
      (((push (s.flags.pack b) (push16 s.pc s)).setFlags { s.flags with i := true }).setPc
        (peek16 (push (s.flags.pack b) (push16 s.pc s)) vector)).charge 7 := by
  simp [interruptEntry]

@[simp] theorem interruptReturn_eq (s : State) :
    interruptReturn s = (pulled (pulled (pulled (s.setFlags (Flags.unpack (pullByte s)))))).setPc
      (pullWord (pulled (s.setFlags (Flags.unpack (pullByte s))))) := rfl

/-! ## A jump's pointer reads: they tell devices of them and do nothing else (30_encoding.md R99, R102) -/

@[simp] theorem jumpTarget_a (s : State) (t : Target) : (jumpTarget s t).2.a = s.a := by
  cases t <;> simp [jumpTarget]

@[simp] theorem jumpTarget_x (s : State) (t : Target) : (jumpTarget s t).2.x = s.x := by
  cases t <;> simp [jumpTarget]

@[simp] theorem jumpTarget_y (s : State) (t : Target) : (jumpTarget s t).2.y = s.y := by
  cases t <;> simp [jumpTarget]

@[simp] theorem jumpTarget_sp (s : State) (t : Target) : (jumpTarget s t).2.sp = s.sp := by
  cases t <;> simp [jumpTarget]

@[simp] theorem jumpTarget_pc (s : State) (t : Target) : (jumpTarget s t).2.pc = s.pc := by
  cases t <;> simp [jumpTarget]

@[simp] theorem jumpTarget_flags (s : State) (t : Target) : (jumpTarget s t).2.flags = s.flags := by
  cases t <;> simp [jumpTarget]

@[simp] theorem jumpTarget_nmiPending (s : State) (t : Target) : (jumpTarget s t).2.nmiPending = s.nmiPending := by
  cases t <;> simp [jumpTarget]

@[simp] theorem jumpTarget_irqLine (s : State) (t : Target) : (jumpTarget s t).2.irqLine = s.irqLine := by
  cases t <;> simp [jumpTarget]

@[simp] theorem jumpTarget_resetReq (s : State) (t : Target) : (jumpTarget s t).2.resetReq = s.resetReq := by
  cases t <;> simp [jumpTarget]

@[simp] theorem jumpTarget_cycles (s : State) (t : Target) : (jumpTarget s t).2.cycles = s.cycles := by
  cases t <;> simp [jumpTarget]

@[simp] theorem jumpTarget_skip (s : State) (t : Target) : (jumpTarget s t).2.skip = s.skip := by
  cases t <;> simp [jumpTarget]

@[simp] theorem jumpTarget_cart (s : State) (t : Target) : (jumpTarget s t).2.cart = s.cart := by
  cases t <;> simp [jumpTarget]

@[simp] theorem jumpTarget_picture (s : State) (t : Target) : (jumpTarget s t).2.picture = s.picture := by
  cases t <;> simp [jumpTarget]

@[simp] theorem jumpTarget_pads (s : State) (t : Target) : (jumpTarget s t).2.pads = s.pads := by
  cases t <;> simp [jumpTarget]

/-! ## Flags an operation leaves alone -/

@[simp] theorem ofSum_i (f : Flags) (r : Sum) : (f.ofSum r).i = f.i := rfl
@[simp] theorem ofSum_d (f : Flags) (r : Sum) : (f.ofSum r).d = f.d := rfl
@[simp] theorem ofCompare_i (f : Flags) (r m : Byte) : (f.ofCompare r m).i = f.i := rfl
@[simp] theorem ofCompare_d (f : Flags) (r m : Byte) : (f.ofCompare r m).d = f.d := rfl
@[simp] theorem ofCompare_v (f : Flags) (r m : Byte) : (f.ofCompare r m).v = f.v := rfl
@[simp] theorem ofBit_c (f : Flags) (a m : Byte) : (f.ofBit a m).c = f.c := rfl
@[simp] theorem ofBit_i (f : Flags) (a m : Byte) : (f.ofBit a m).i = f.i := rfl
@[simp] theorem ofBit_d (f : Flags) (a m : Byte) : (f.ofBit a m).d = f.d := rfl
@[simp] theorem ofShift_i (f : Flags) (out : Bool) (r : Byte) : (f.ofShift out r).i = f.i := rfl
@[simp] theorem ofShift_d (f : Flags) (out : Bool) (r : Byte) : (f.ofShift out r).d = f.d := rfl
@[simp] theorem ofShift_v (f : Flags) (out : Bool) (r : Byte) : (f.ofShift out r).v = f.v := rfl

/-! ## Costs (70_reset_and_hazards.md R320, R321): every operation costs a cycle or more -/

theorem readCost_pos (s : State) (o : Src) : 0 < readCost s o := by
  unfold readCost
  split <;> omega

theorem storeCost_pos (m : Mem) : 0 < storeCost m := by
  cases m <;> simp [storeCost]

theorem rmwCost_pos (m : Mem) : 0 < rmwCost m := by
  cases m <;> simp [rmwCost]

theorem jumpCost_pos (t : Target) : 0 < jumpCost t := by
  cases t <;> simp [jumpCost]

theorem branchCost_pos (taken : Bool) (next target : Addr) : 0 < branchCost taken next target := by
  unfold branchCost
  omega

/-! ## Writes -/

/-- A write charges nothing but the stall of a DMA (R324). -/
theorem memWrite_skip_le (a : Addr) (v : Byte) (s : State) : s.skip ≤ (memWrite a v s).skip := by
  unfold memWrite
  split
  case h_4 => simp
  case h_6 => split <;> exact le_rfl
  all_goals exact le_rfl

/-- A read and a write back of one address charge nothing but the stall of a DMA. -/
theorem modify_skip_le (a : Addr) (v : Byte) (s : State) : s.skip ≤ (memWrite a v (memRead a s).2).skip := by
  simpa using memWrite_skip_le a v (memRead a s).2

/-- A program region lies in the program window (20_memory.md R58). -/
theorem program_range (a p : Addr) (h : region a = .program p) : 0x8000 ≤ a.toNat := by
  simp only [region] at h
  repeat' split at h
  all_goals simp at h
  omega

/-- The register behind a device's address: a PPU register by its place among eight, or the address itself (20_memory.md
R54, Table R51). -/
theorem device_register (a reg : Addr) (h : region a = .device reg) :
    (0x2000 ≤ a.toNat ∧ a.toNat < 0x4000 ∧ reg.toNat = 0x2000 + a.toNat % 8) ∨ (0x4015 ≤ a.toNat ∧ reg = a) := by
  simp only [region] at h
  repeat' split at h
  all_goals simp at h
  · have hreg : reg.toNat = 0x2000 + a.toNat % 8 := by rw [← h, BitVec.toNat_ofNat]; omega
    exact Or.inl ⟨by omega, by omega, hreg⟩
  · exact Or.inr ⟨by omega, h.symm⟩

/-- A write outside the program window leaves the cartridge alone (R58). -/
theorem memWrite_cart_of_lt (a : Addr) (v : Byte) (s : State) (h : a.toNat < 0x8000) :
    (memWrite a v s).cart = s.cart := by
  rcases memWrite_cart a v s with hc | ⟨p, hp, -⟩
  · exact hc
  · exact absurd (program_range a p hp) (by omega)

/-- A write that is not to 0x2007 or a mirror of it leaves the PictureBus alone (R82). -/
theorem memWrite_picture_of_ne (a : Addr) (v : Byte) (s : State)
    (h : ¬ (0x2000 ≤ a.toNat ∧ a.toNat < 0x4000 ∧ a &&& 0x0007 = 0x0007)) : (memWrite a v s).picture = s.picture := by
  rcases memWrite_picture a v s with hp | ⟨hr, -⟩
  · exact hp
  · rcases device_register a _ hr with ⟨h1, h2, h3⟩ | ⟨h1, rfl⟩
    · refine absurd ⟨h1, h2, BitVec.eq_of_toNat_eq ?_⟩ h
      have hmod : a.toNat &&& 7 = a.toNat % 8 := Nat.and_two_pow_sub_one_eq_mod a.toNat 3
      simp only [BitVec.toNat_and, BitVec.reduceToNat] at h3 ⊢
      omega
    · exact absurd h1 (by decide)

/-- A write that is not to 0x4016 leaves the controllers alone (60_exceptions.md R264). -/
theorem memWrite_pads_of_ne (a : Addr) (v : Byte) (s : State) (h : a ≠ 0x4016) : (memWrite a v s).pads = s.pads := by
  rcases memWrite_pads a v s with hp | ⟨hr, -⟩
  · exact hp
  · rcases device_register a _ hr with ⟨-, -, h3⟩ | ⟨-, h1⟩
    · simp only [BitVec.reduceToNat] at h3
      omega
    · exact absurd h1.symm h

end Sys2Proof.Machine
end

section
/-! PROOFS. The frames over every instruction: which instructions write a register or a flag (spec 10_state.md R22-R33). -/

namespace Sys2Proof.Machine

open Sys2Proof.Claims

/-! ## Registers -/

/-- Only the writers of R22 change A. -/
theorem exec_a {i : Instr} {s t : State} (h : exec i s = .next t) (hw : writesA i = false) : t.a = s.a := by
  cases i with
  | lda _ | pla | txa | tya | adc _ | sbc _ | and _ | ora _ | eor _ => cases hw
  | asl o | lsr o | rol o | ror o =>
    cases o with
    | acc => cases hw
    | mem m => cases h; simp
  | _ => cases h; simp

/-- Only the writers of R23 change X. -/
theorem exec_x {i : Instr} {s t : State} (h : exec i s = .next t) (hw : writesX i = false) : t.x = s.x := by
  cases i with
  | ldx _ | tax | tsx | inx | dex => cases hw
  | asl o | lsr o | rol o | ror o => cases h; cases o <;> simp
  | _ => cases h; simp

/-- Only the writers of R24 change Y. -/
theorem exec_y {i : Instr} {s t : State} (h : exec i s = .next t) (hw : writesY i = false) : t.y = s.y := by
  cases i with
  | ldy _ | tay | iny | dey => cases hw
  | asl o | lsr o | rol o | ror o => cases h; cases o <;> simp
  | _ => cases h; simp

/-- Only pushes, pulls and TXS change SP (R25). -/
theorem exec_sp {i : Instr} {s t : State} (h : exec i s = .next t) (hw : writesSp i = false) : t.sp = s.sp := by
  cases i with
  | pha | php | pla | plp | txs | jsr _ | rts | brk | rti => cases hw
  | asl o | lsr o | rol o | ror o => cases h; cases o <;> simp
  | _ => cases h; simp

/-- Only the control instructions of R26 change PC, which the fetch has already moved. -/
theorem exec_pc {i : Instr} {s t : State} (h : exec i s = .next t) (hw : writesPc i = false) : t.pc = s.pc := by
  cases i with
  | jmp _ | jsr _ | rts | rti | brk | bcc _ | bcs _ | beq _ | bne _ | bmi _ | bpl _ | bvc _ | bvs _ => cases hw
  | asl o | lsr o | rol o | ror o => cases h; cases o <;> simp
  | _ => cases h; simp

/-- Settles O40, register by register. -/
theorem registersChangeOnlyByTheirWriters : Obligations.RegistersChangeOnlyByTheirWriters :=
  fun _ _ _ h => ⟨exec_a h, exec_x h, exec_y h, exec_sp h, exec_pc h⟩

/-! ## Flags -/

/-- Only the writers of R28 change C. -/
theorem exec_c {i : Instr} {s t : State} (h : exec i s = .next t) (hw : writesC i = false) : t.flags.c = s.flags.c := by
  cases i with
  | adc _ | sbc _ | cmp _ | cpx _ | cpy _ | asl _ | lsr _ | rol _ | ror _ | clc | sec | plp | rti => cases hw
  | _ => cases h; simp

/-- Only the writers of R29 and R33 change Z and N; they are the same instructions. -/
theorem exec_zn {i : Instr} {s t : State} (h : exec i s = .next t) (hw : writesZN i = false) :
    t.flags.z = s.flags.z ∧ t.flags.n = s.flags.n := by
  cases i with
  | lda _ | ldx _ | ldy _ | tax | tay | txa | tya | tsx | pla | adc _ | sbc _ | cmp _ | cpx _ | cpy _ | inc _ | inx | iny
  | dec _ | dex | dey | and _ | ora _ | eor _ | asl _ | lsr _ | rol _ | ror _ | bit _ | plp | rti => cases hw
  | _ => cases h; simp

/-- Only the writers of R30 change I. -/
theorem exec_i {i : Instr} {s t : State} (h : exec i s = .next t) (hw : writesI i = false) : t.flags.i = s.flags.i := by
  cases i with
  | sei | cli | plp | rti | brk => cases hw
  | asl o | lsr o | rol o | ror o => cases h; cases o <;> simp
  | _ => cases h; simp

/-- Only the writers of R31 change D. -/
theorem exec_d {i : Instr} {s t : State} (h : exec i s = .next t) (hw : writesD i = false) : t.flags.d = s.flags.d := by
  cases i with
  | sed | cld | plp | rti => cases hw
  | asl o | lsr o | rol o | ror o => cases h; cases o <;> simp
  | _ => cases h; simp

/-- Only the writers of R32 change V. -/
theorem exec_v {i : Instr} {s t : State} (h : exec i s = .next t) (hw : writesV i = false) : t.flags.v = s.flags.v := by
  cases i with
  | adc _ | sbc _ | bit _ | clv | plp | rti => cases hw
  | asl o | lsr o | rol o | ror o => cases h; cases o <;> simp
  | _ => cases h; simp

/-- Settles O41, flag by flag. -/
theorem flagsChangeOnlyByTheirWriters : Obligations.FlagsChangeOnlyByTheirWriters :=
  fun _ _ _ h => ⟨exec_c h, exec_zn h, exec_i h, exec_d h, exec_v h⟩

end Sys2Proof.Machine
end

section
/-! PROOFS. What no instruction writes but through a store (spec 10_state.md R39; 20_memory.md R58, R82; 60_exceptions.md
R264), and that each charges a cost (70_reset_and_hazards.md R320). -/

namespace Sys2Proof.Machine

open Sys2Proof.Claims

/-- The interrupt inputs and the global count of cycles: written by none (R39). -/
theorem exec_inputs {i : Instr} {s t : State} (h : exec i s = .next t) :
    t.nmiPending = s.nmiPending ∧ t.irqLine = s.irqLine ∧ t.resetReq = s.resetReq ∧ t.cycles = s.cycles := by
  cases i with
  | asl o | lsr o | rol o | ror o => cases h; cases o <;> simp
  | _ => cases h; simp

/-- Every instruction charges a cycle or more (R320, R321). -/
theorem exec_skip_lt {i : Instr} {s t : State} (h : exec i s = .next t) : s.skip < t.skip := by
  cases i with
  | lda o | ldx o | ldy o | adc o | sbc o | cmp o | cpx o | cpy o | and o | ora o | eor o =>
    cases h
    simp [readCost_pos]
  | bit m => cases h; simp [readCost_pos]
  | sta m | stx m | sty m =>
    cases h
    exact Nat.lt_of_le_of_lt (memWrite_skip_le _ _ s) (Nat.lt_add_of_pos_right (storeCost_pos m))
  | inc m | dec m =>
    cases h
    exact Nat.lt_of_le_of_lt (modify_skip_le _ _ s) (Nat.lt_add_of_pos_right (rmwCost_pos m))
  | asl o | lsr o | rol o | ror o =>
    cases h
    cases o with
    | acc => simp
    | mem m => exact Nat.lt_of_le_of_lt (modify_skip_le _ _ s) (Nat.lt_add_of_pos_right (rmwCost_pos m))
  | bcc d | bcs d | beq d | bne d | bmi d | bpl d | bvc d | bvs d => cases h; simp [branchCost_pos]
  | jmp target => cases h; simp [jumpCost_pos]
  | _ => cases h; simp

/-- What lies beyond the core and its memory: the cartridge, the PictureBus and the controllers. -/
def State.surroundings (s : State) : Option Cartridge × Picture × Pads := (s.cart, s.picture, s.pads)

/-- Everything an instruction can do to the surroundings: nothing, or one write at an address it stores to, made in a state
with the surroundings as they were. A push reaches none of them: its slot is internal RAM (20_memory.md R62). -/
theorem exec_surroundings {i : Instr} {s t : State} (h : exec i s = .next t) :
    t.surroundings = s.surroundings ∨ ∃ a ∈ storeAddrs s i, ∃ (v : Byte) (u : State),
      u.surroundings = s.surroundings ∧ t.surroundings = (memWrite a v u).surroundings := by
  cases i with
  | sta m | stx m | sty m =>
    cases h
    exact Or.inr ⟨ea s m, List.mem_singleton_self _, _, s, rfl, rfl⟩
  | inc m | dec m =>
    cases h
    exact Or.inr ⟨ea s m, List.mem_singleton_self _, _, (memRead (ea s m) s).2, by simp [State.surroundings], rfl⟩
  | asl o | lsr o | rol o | ror o =>
    cases h
    cases o with
    | acc => exact Or.inl rfl
    | mem m =>
      exact Or.inr ⟨ea s m, List.mem_singleton_self _, _, (memRead (ea s m) s).2, by simp [State.surroundings], rfl⟩
  | _ =>
    cases h
    left
    simp [State.surroundings]

/-- A part `part` of the surroundings stays where no write to an address the instruction stores to changes it. -/
theorem exec_surroundings_part {α : Type} (part : Option Cartridge × Picture × Pads → α) {i : Instr} {s t : State}
    (h : exec i s = .next t)
    (hw : ∀ a ∈ storeAddrs s i, ∀ v u, part (memWrite a v u).surroundings = part u.surroundings) :
    part t.surroundings = part s.surroundings := by
  rcases exec_surroundings h with hs | ⟨a, ha, v, u, hu, ht⟩
  · rw [hs]
  · rw [ht, hw a ha, hu]

/-- Settles O42, from the frames above and what a write leaves alone at the addresses stored to. -/
theorem noInstructionWritesInputs : Obligations.NoInstructionWritesInputs := by
  intro i s t h
  obtain ⟨hnmi, hirq, hreset, hcycles⟩ := exec_inputs h
  refine ⟨hnmi, hirq, hreset, hcycles, exec_skip_lt h, fun hs => ?cart, fun hs => ?picture, fun hs => ?pads⟩
  case cart => exact exec_surroundings_part (·.1) h fun a ha v u => memWrite_cart_of_lt a v u (hs a ha)
  case picture => exact exec_surroundings_part (·.2.1) h fun a ha v u => memWrite_picture_of_ne a v u (hs a ha)
  case pads => exact exec_surroundings_part (·.2.2) h fun a ha v u => memWrite_pads_of_ne a v u (hs a ha)

end Sys2Proof.Machine
end

section
/-! PROOFS. The D flag is read by no operation but the packing of the flags (spec 10_state.md R31; D2): every operation
does the same in `withD d s`, with D kept. -/

namespace Sys2Proof.Machine

open Sys2Proof.Claims

/-! ## The bus -/

@[simp] theorem memRead_withD (d : Bool) (a : Addr) (s : State) :
    memRead a (withD d s) = ((memRead a s).1, withD d (memRead a s).2) := by
  unfold memRead
  split <;> rfl

@[simp] theorem peek_withD (d : Bool) (s : State) (a : Addr) : peek (withD d s) a = peek s a := by
  simp [peek]

theorem readBlock_withD (d : Bool) (n : Nat) (a : Addr) (s : State) :
    readBlock n a (withD d s) = ((readBlock n a s).1, withD d (readBlock n a s).2) := by
  induction n generalizing a s with
  | zero => rfl
  | succ n ih => simp [readBlock, ih]

theorem emit_withD (d : Bool) (e : IoEvent) (s : State) : (withD d s).emit e = withD d (s.emit e) := rfl

theorem charge_withD (d : Bool) (n : Nat) (s : State) : (withD d s).charge n = withD d (s.charge n) := rfl

theorem spriteDma_withD (d : Bool) (v : Byte) (s : State) : spriteDma v (withD d s) = withD d (spriteDma v s) := by
  have hcycles : (withD d s).cycles = s.cycles := rfl
  simp only [spriteDma, readBlock_withD, emit_withD, charge_withD, hcycles]

theorem memWrite_withD (d : Bool) (a : Addr) (v : Byte) (s : State) :
    memWrite a v (withD d s) = withD d (memWrite a v s) := by
  unfold memWrite
  split
  case h_4 => rw [emit_withD, spriteDma_withD]
  case h_6 => rw [apply_ite (withD d)]; rfl
  all_goals rfl

theorem push_withD (d : Bool) (v : Byte) (s : State) : push v (withD d s) = withD d (push v s) := by
  simp only [push_eq]
  rfl

theorem pullByte_withD (d : Bool) (s : State) : pullByte (withD d s) = pullByte s := peek_withD d s _

theorem pullWord_withD (d : Bool) (s : State) : pullWord (withD d s) = pullWord s := by
  have hpulled : pulled (withD d s) = withD d (pulled s) := rfl
  simp only [pullWord, hpulled, pullByte_withD]

/-! ## Operands and costs -/

@[simp] theorem zpPointer_withD (d : Bool) (s : State) (z : Byte) : zpPointer (withD d s) z = zpPointer s z := by
  simp [zpPointer]

@[simp] theorem ea_withD (d : Bool) (s : State) (m : Mem) : ea (withD d s) m = ea s m := by
  cases m with
  | indx z | indy z => simp only [ea, zpPointer_withD]; rfl
  | _ => rfl

@[simp] theorem crossed_withD (d : Bool) (s : State) (m : Mem) : crossed (withD d s) m = crossed s m := by
  cases m <;> simp [crossed, indexBase]

@[simp] theorem readCost_withD (d : Bool) (s : State) (o : Src) : readCost (withD d s) o = readCost s o := by
  rcases o with v | m
  · rfl
  · cases m <;> simp [readCost]

theorem readSrc_withD (d : Bool) (s : State) (o : Src) :
    readSrc (withD d s) o = ((readSrc s o).1, withD d (readSrc s o).2) := by
  cases o with
  | imm v => rfl
  | mem m => simp only [readSrc, ea_withD, memRead_withD]

theorem jumpTarget_withD (d : Bool) (s : State) (t : Target) :
    jumpTarget (withD d s) t = ((jumpTarget s t).1, withD d (jumpTarget s t).2) := by
  cases t with
  | abs w => rfl
  | ind ptr => simp only [jumpTarget, memRead_withD]

/-! ## The shared operations -/

theorem load_withD (d : Bool) {set : Byte → State → State} (hset : ∀ v s, set v (withD d s) = withD d (set v s)) (o : Src)
    (s : State) : load set o (withD d s) = withD d (load set o s) := by
  simp only [load, readSrc_withD, readCost_withD, hset]
  rfl

theorem store_withD (d : Bool) (v : Byte) (m : Mem) (s : State) : store v m (withD d s) = withD d (store v m s) := by
  simp only [store, ea_withD, memWrite_withD]
  rfl

theorem compareReg_withD (d : Bool) (v : Byte) (o : Src) (s : State) :
    compareReg v o (withD d s) = withD d (compareReg v o s) := by
  simp only [compareReg, readSrc_withD, readCost_withD]
  rfl

theorem logic_withD (d : Bool) (f : Byte → Byte → Byte) (o : Src) (s : State) :
    logic f o (withD d s) = withD d (logic f o s) := by
  simp only [logic, readSrc_withD, readCost_withD]
  rfl

theorem modifyMem_withD (d : Bool) (f : Byte → Byte) (m : Mem) (s : State) :
    modifyMem f m (withD d s) = withD d (modifyMem f m s) := by
  simp only [modifyMem, ea_withD, memRead_withD, memWrite_withD]
  rfl

theorem shift_withD (d : Bool) (f : Byte → Bool → Byte) (out : Byte → Bool) (o : Shf) (s : State) :
    shift f out o (withD d s) = withD d (shift f out o s) := by
  cases o with
  | acc => rfl
  | mem m =>
    simp only [shift, ea_withD, memRead_withD, memWrite_withD]
    rfl

/-- Adding to A keeps D and reads none of it (42_arithmetic.md R160). -/
theorem addToA_withD (d : Bool) (b : Byte) (s : State) : addToA b (withD d s) = withD d (addToA b s) := rfl

/-! ## The instructions -/

/-- An instruction that neither pushes nor writes D does the same whatever D is, and keeps it. -/
theorem exec_withD (d : Bool) {i : Instr} {s t : State} (h : exec i s = .next t) (hp : pushesFlags i = false)
    (hw : writesD i = false) : exec i (withD d s) = .next (withD d t) := by
  cases i with
  | php | brk => cases hp
  | sed | cld | plp | rti => cases hw
  | lda o | ldx o | ldy o =>
    cases h
    refine congrArg Host.Outcome.next (load_withD d ?_ o s)
    exact fun _ _ => rfl
  | sta m | stx m | sty m => cases h; exact congrArg Host.Outcome.next (store_withD d _ m s)
  | cmp o | cpx o | cpy o => cases h; exact congrArg Host.Outcome.next (compareReg_withD d _ o s)
  | and o | ora o | eor o => cases h; exact congrArg Host.Outcome.next (logic_withD d _ o s)
  | inc m | dec m => cases h; exact congrArg Host.Outcome.next (modifyMem_withD d _ m s)
  | asl o | lsr o | rol o | ror o => cases h; exact congrArg Host.Outcome.next (shift_withD d _ _ o s)
  | adc o | sbc o =>
    cases h
    simp only [exec, execAdc, execSbc, readSrc_withD, readCost_withD, addToA_withD]
    rfl
  | bit m =>
    cases h
    simp only [exec, execBit, ea_withD, memRead_withD, readCost_withD]
    rfl
  | jmp target =>
    cases h
    simp only [exec, execJmp, jumpTarget_withD]
    rfl
  | pha => cases h; exact congrArg (fun u => Host.Outcome.next (State.charge 3 u)) (push_withD d s.a s)
  | jsr target =>
    cases h
    simp only [exec, execJsr, push16_eq, push_withD]
    rfl
  | pla =>
    cases h
    simp only [exec, execPla, pullByte_withD]
    rfl
  | rts =>
    cases h
    simp only [exec, execRts, pullWord_withD]
    rfl
  | _ => cases h; rfl

/-- An instruction that writes D loses what D was. -/
theorem exec_withD_of_writesD (d : Bool) {i : Instr} (s : State) (hw : writesD i = true) :
    exec i (withD d s) = exec i s := by
  cases i with
  | sed | cld => rfl
  | plp =>
    simp only [exec, execPlp, pullByte_withD]
    rfl
  | rti =>
    simp only [exec, execRti, interruptReturn_eq, pullByte_withD]
    rfl
  | _ => cases hw

/-- Settles O27: an instruction overwrites D, or keeps it and does the same whatever it is. -/
theorem decimalFlagHasNoEffect : Obligations.DecimalFlagHasNoEffect := by
  intro i s d hp
  cases hw : writesD i with
  | true => rw [exec_withD_of_writesD d s hw]
  | false =>
    obtain ⟨t, ht⟩ := exec_answers i s
    rw [exec_withD d ht hp hw, ht]
    rfl

end Sys2Proof.Machine
end

section
/-! PROOFS. A property of what lies beyond the core's registers, kept by every access of the bus, is kept by every
instruction and every step (spec 20_memory.md R68; 60_exceptions.md R245). -/

namespace Sys2Proof.Machine

open Sys2Proof.Claims

/-- What lies beyond the core's registers, inputs and timing state: all the bus reaches. -/
def State.beyond (s : State) : Memory × Option Cartridge × Ppu × Picture × Pads × List IoEvent :=
  (s.mem, s.cart, s.ppu, s.picture, s.pads, s.io)

section
variable {s t : State} (h : t.beyond = s.beyond)
include h

theorem mem_of_beyond : t.mem = s.mem := congrArg (·.1) h
theorem cart_of_beyond : t.cart = s.cart := congrArg (·.2.1) h
theorem ppu_of_beyond : t.ppu = s.ppu := congrArg (·.2.2.1) h
theorem picture_of_beyond : t.picture = s.picture := congrArg (·.2.2.2.1) h

end

/-! ## Reads and writes, then instructions, then steps -/

section
variable {P : State → Prop} (hread : ∀ (a : Addr) ⦃u : State⦄, P u → P (memRead a u).2)

section
include hread

theorem readSrc_keeps {s : State} (o : Src) (hs : P s) : P (readSrc s o).2 := by
  cases o with
  | imm v => exact hs
  | mem m => exact hread _ hs

theorem jumpTarget_keeps {s : State} (t : Target) (hs : P s) : P (jumpTarget s t).2 := by
  cases t with
  | abs w => exact hs
  | ind ptr => exact hread _ (hread ptr hs)

end

variable (hcore : ∀ ⦃u t : State⦄, P u → t.beyond = u.beyond → P t)
include hcore

theorem push_keeps {s : State} {sp : Byte} (v : Byte) (hsp : s.sp = sp)
    (hwrite : ∀ v u, P u → P (memWrite (stackAddr sp) v u)) (hs : P s) : P (push v s) := by
  subst hsp
  exact hcore (hwrite v s hs) rfl

/-- The two writes of a 16-bit push are at the slot at SP and the one below it (20_memory.md R63). -/
theorem push16_keeps {s : State} (w : Addr)
    (hwrite : ∀ a ∈ [stackAddr s.sp, stackAddr (s.sp - 1)], ∀ v u, P u → P (memWrite a v u)) (hs : P s) :
    P (push16 w s) := by
  simp only [List.forall_mem_cons] at hwrite
  obtain ⟨hhigh, hlow, -⟩ := hwrite
  exact push_keeps hcore _ (push_sp _ s) hlow (push_keeps hcore _ rfl hhigh hs)

/-- The three writes of an interrupt entry are at the slot at SP and the two below it (60_exceptions.md R247). -/
theorem interruptEntry_keeps {s : State} (vector : Addr) (b : Bool)
    (hwrite : ∀ a ∈ [stackAddr s.sp, stackAddr (s.sp - 1), stackAddr (s.sp - 2)], ∀ v u, P u → P (memWrite a v u))
    (hs : P s) : P (interruptEntry vector b s) := by
  have hflags := hwrite (stackAddr (s.sp - 2)) (by simp)
  have hword : P (push16 s.pc s) :=
    push16_keeps hcore s.pc (fun a ha => hwrite a (List.mem_of_mem_dropLast (l := [_, _, _]) ha)) hs
  have hsp : (push16 s.pc s).sp = s.sp - 2 := by
    rw [push16_eq, push_sp, push_sp]
    bv_omega
  have hpushed : P (push (s.flags.pack b) (push16 s.pc s)) := push_keeps hcore _ hsp hflags hword
  exact hcore hpushed rfl

include hread

/-- An instruction keeps what every read and every write to an address it stores to keep. -/
theorem exec_keeps {i : Instr} {s t : State} (h : exec i s = .next t)
    (hwrite : ∀ a ∈ storeAddrs s i, ∀ v u, P u → P (memWrite a v u)) (hs : P s) : P t := by
  cases i with
  | lda o | ldx o | ldy o | adc o | sbc o | cmp o | cpx o | cpy o | and o | ora o | eor o =>
    cases h
    exact hcore (readSrc_keeps hread o hs) rfl
  | bit m => cases h; exact hcore (hread (ea s m) hs) rfl
  | jmp target => cases h; exact hcore (jumpTarget_keeps hread target hs) rfl
  | sta m | stx m | sty m => cases h; exact hcore (hwrite (ea s m) (List.mem_singleton_self _) _ s hs) rfl
  | inc m | dec m => cases h; exact hcore (hwrite (ea s m) (List.mem_singleton_self _) _ _ (hread _ hs)) rfl
  | asl o | lsr o | rol o | ror o =>
    cases h
    cases o with
    | acc => exact hcore hs rfl
    | mem m => exact hcore (hwrite (ea s m) (List.mem_singleton_self _) _ _ (hread _ hs)) rfl
  | pha | php => cases h; exact hcore (hwrite _ (List.mem_singleton_self _) _ s hs) rfl
  | jsr target => cases h; exact hcore (push16_keeps hcore (s.pc - 1) hwrite hs) (by simp [State.beyond])
  | brk => cases h; exact interruptEntry_keeps hcore _ _ hwrite (hcore hs rfl)
  | rts | rti => cases h; exact hcore hs (by simp [State.beyond])
  | _ => cases h; exact hcore hs rfl

theorem fetch_keeps {s : State} (hs : P s) : P (fetch s).2 := hcore (hread s.pc hs) rfl

theorem fetchBytes_keeps {s : State} (n : Nat) (hs : P s) : P (fetchBytes n s).2 := by
  induction n generalizing s with
  | zero => exact hs
  | succ n ih => exact ih (fetch_keeps hread hcore hs)

theorem fetchInstr_keeps {s : State} (hs : P s) : P (fetchInstr s).2 :=
  fetchBytes_keeps hread hcore _ (fetch_keeps hread hcore hs)

/-- A step keeps what every read, every write and a reset keep. -/
theorem step_keeps {s t : State} (h : step s = .next t) (hwrite : ∀ a v u, P u → P (memWrite a v u))
    (hreset : ∀ ⦃u⦄, P u → P (doReset u)) (hs : P s) : P t := by
  obtain ⟨-, u, hb, rfl⟩ := step_cases h
  have hsettle : P s.settle := hcore hs rfl
  suffices hu : P u from hcore hu rfl
  obtain ⟨-, rfl⟩ | ⟨-, -, rfl⟩ | ⟨-, -, -, -, rfl⟩ | ⟨-, -, -, he⟩ := boundary_cases hb
  · exact hreset hsettle
  · exact interruptEntry_keeps hcore _ _ (fun a _ => hwrite a) (hcore hsettle rfl)
  · exact interruptEntry_keeps hcore _ _ (fun a _ => hwrite a) hsettle
  · exact exec_keeps hread hcore he (fun a _ => hwrite a) (fetchInstr_keeps hread hcore hsettle)

end

/-! ## Legal states -/

/-- A reset keeps the state legal: of what legality looks at it changes the PPU alone (70_reset_and_hazards.md R300,
R303). -/
theorem doReset_legal {s : State} (h : s.legal = true) : (doReset s).legal = true := by
  have hppu := Ppu.legal_sees s.io .deviceReset (State.legal_ppu h)
  rw [← h]
  exact legal_congr rfl rfl (hppu.trans (State.legal_ppu h).symm) rfl

theorem legal_of_beyond {s t : State} (hb : t.beyond = s.beyond) (h : s.legal = true) : t.legal = true := by
  rw [← h]
  exact legal_congr (mem_of_beyond hb) (cart_of_beyond hb) (congrArg Ppu.legal (ppu_of_beyond hb)) (picture_of_beyond hb)

/-- Settles O50, by evaluation: nothing is listed anywhere, and scanline 0 is pre-render whatever the free division of the
scanlines is. -/
theorem resetStateIsLegal : Obligations.ResetStateIsLegal := by
  unfold Obligations.ResetStateIsLegal
  decide

/-- Settles O51: an access of the bus and a reset keep a state legal, and a step makes nothing else. -/
theorem stepKeepsLegal : Obligations.StepKeepsLegal := fun _ _ hs h =>
  step_keeps (P := fun u => u.legal = true) (fun a _ => memRead_legal a) (fun _ _ hu hb => legal_of_beyond hb hu) h
    (fun a v _ => memWrite_legal a v) (fun _ => doReset_legal) hs

/-! ## The images -/

theorem imageOf_memRead (a : Addr) (s : State) : imageOf (memRead a s).2 = imageOf s := by
  simp [imageOf]

/-- No write changes the images: the only one that reaches the cartridge is a command to its mapper (20_memory.md R58,
R75). -/
theorem imageOf_memWrite (a : Addr) (v : Byte) (s : State) : imageOf (memWrite a v s) = imageOf s := by
  rcases memWrite_cart a v s with hc | ⟨p, -, hc⟩
  · simp only [imageOf, hc]
  · cases hs : s.cart with
    | none => simp [imageOf, hc, hs]
    | some c =>
      obtain ⟨hprg, hchr, hprgBanks, hchrBanks, hext⟩ := writeProgram_image c p v
      simp [imageOf, hc, hs, hprg, hchr, hprgBanks, hchrBanks, hext]

/-- Whether there is extended RAM is part of the image. -/
theorem hasExtRam_of_imageOf {s t : State} (h : imageOf t = imageOf s) : t.hasExtRam = s.hasExtRam := by
  have himage (u : State) : u.hasExtRam = (imageOf u).any (·.2.2.2.2) := by
    simp [State.hasExtRam, imageOf, Option.any_map]
  rw [himage, himage, h]

theorem imageOf_of_beyond {s t : State} (hb : t.beyond = s.beyond) : imageOf t = imageOf s := by
  simp only [imageOf, cart_of_beyond hb]

/-- Settles O49: neither an access of the bus nor a reset changes the images. -/
theorem noStepChangesProgramImage : Obligations.NoStepChangesProgramImage := fun s _ h =>
  step_keeps (P := fun u => imageOf u = imageOf s) (fun a u => (imageOf_memRead a u).trans)
    (fun _ _ hu hb => (imageOf_of_beyond hb).trans hu) h (fun a v u => (imageOf_memWrite a v u).trans) (fun _ hu => hu) rfl

/-! ## Bytes that are no device's -/

/-- Different places of storage are different cells. -/
theorem cell_ne {a b : Addr} {j k : Nat} (hab : region a ≠ region b) (ha : region a = .ram j ∨ region a = .extRam j)
    (hb : region b = .ram k ∨ region b = .extRam k) : j ≠ k := by
  rintro rfl
  rcases ha with ha | ha <;> rcases hb with hb | hb
  · exact hab (ha.trans hb.symm)
  · have := ram_cell_lt a j ha
    have := extRam_cell_range b j hb
    omega
  · have := ram_cell_lt b j hb
    have := extRam_cell_range a j ha
    omega
  · exact hab (ha.trans hb.symm)

/-- A write leaves every byte alone that is no device's and is not at the same place (20_memory.md R52, R57, R58). -/
theorem peek_memWrite_other (a b : Addr) (v : Byte) (s : State) (hb : isDevice b = false) (hab : ¬ SamePlace a b) :
    peek (memWrite a v s) b = peek s b := by
  have hplace : region a ≠ region b := fun h => hab (Or.inl h)
  have hext : (memWrite a v s).hasExtRam = s.hasExtRam := hasExtRam_of_imageOf (imageOf_memWrite a v s)
  cases hr : region b with
  | ram k | extRam k =>
    have hcell : Memory.read (memWrite a v s).mem k = Memory.read s.mem k := by
      rcases memWrite_mem a v s with hm | ⟨j, hj, hm⟩
      · rw [hm]
      · rw [hm]
        exact Memory.read_write_other s.mem j k v (cell_ne hplace hj (by simp [hr]))
    simp [peek, memRead, hr, hcell, hext]
  | program p =>
    have hlt : a.toNat < 0x8000 := by
      by_contra hge
      exact hab (Or.inr ⟨by omega, program_range b p hr⟩)
    exact peek_program s _ b (program_range b p hr) (memWrite_cart_of_lt a v s hlt)
  | device r => simp [isDevice, hr] at hb
  | writeOnly r | dmaTrigger | unregistered => simp [peek, memRead, hr]

theorem peek_of_beyond {s t : State} {b : Addr} (hb : isDevice b = false) (h : t.beyond = s.beyond) :
    peek t b = peek s b := peek_congr s t b hb (mem_of_beyond h) (cart_of_beyond h)

/-- The addresses of a cell of internal RAM (20_memory.md R52). -/
theorem ram_region_iff {b : Addr} {k : Nat} : region b = .ram k ↔ b.toNat < 0x2000 ∧ k = b.toNat % 0x800 := by
  constructor
  · intro h
    simp only [region] at h
    repeat' split at h
    all_goals simp at h
    exact ⟨by omega, h.symm⟩
  · rintro ⟨hlt, rfl⟩
    exact region_of_lt_2000 b hlt

/-- Settles O43: of the accesses an instruction makes, only a write at the same place changes a byte that is no device's. -/
theorem memoryChangesOnlyWhereStored : Obligations.MemoryChangesOnlyWhereStored := fun _ s _ h b hb hplace =>
  exec_keeps (P := fun u => peek u b = peek s b)
    (fun a u => (peek_congr u _ b hb (memRead_mem a u) (memRead_cart a u)).trans)
    (fun _ _ hu ht => (peek_of_beyond hb ht).trans hu) h
    (fun a ha v u => (peek_memWrite_other a b v u hb (hplace a ha)).trans) rfl

/-- Settles O44: the four addresses of a cell have one region, and no other address has. -/
theorem ramIsMirroredFourTimes : Obligations.RamIsMirroredFourTimes := by
  intro a b v s hs ha
  have hra := region_of_lt_2000 a ha
  have hwrite := memWrite_ram a v s _ hra
  refine ⟨by simp [memRead, hra], by rw [hwrite], fun hb hcell => ?same, fun hb hcell => ?other⟩
  case same =>
    have hrb : region b = .ram (a.toNat % 0x800) := by rw [region_of_lt_2000 b hb, hcell]
    exact ⟨peek_memWrite_ram a b v s _ hra hrb (State.legal_mem hs), by simp [peek, memRead, hra, hrb]⟩
  case other =>
    refine peek_memWrite_other a b v s hb ?_
    rintro (hr | ⟨hge, -⟩)
    · exact hcell (ram_region_iff.1 (hr.symm.trans hra))
    · omega

end Sys2Proof.Machine
end

section
/-! PROOFS. The windows of Table R51 between internal RAM and the program window (spec 20_memory.md R53-R57, R60, R82;
60_exceptions.md R264): the region of each, then what a read and a write there do. -/

namespace Sys2Proof.Machine

open Sys2Proof.Claims

/-! ## Regions -/

theorem region_writeOnly (a : Addr) (h1 : 0x4000 ≤ a.toNat) (h2 : a.toNat < 0x4014) : region a = .writeOnly a := by
  unfold region
  simp only
  rw [if_neg (by omega), if_neg (by omega), if_pos h2]

theorem region_unregistered (a : Addr) (h1 : 0x4018 ≤ a.toNat) (h2 : a.toNat < 0x6000) : region a = .unregistered := by
  unfold region
  simp only
  rw [if_neg (by omega), if_neg (by omega), if_neg (by omega), if_neg (by omega), if_neg (by omega), if_pos h2]

theorem region_extRam (a : Addr) (h1 : 0x6000 ≤ a.toNat) (h2 : a.toNat < 0x8000) : region a = .extRam a.toNat := by
  unfold region
  simp only
  rw [if_neg (by omega), if_neg (by omega), if_neg (by omega), if_neg (by omega), if_neg (by omega), if_neg (by omega),
    if_pos h2]

/-! ## The PPU registers -/

theorem and_seven_toNat (a : Addr) : (a &&& 0x0007).toNat = a.toNat % 8 :=
  Nat.and_two_pow_sub_one_eq_mod a.toNat 3

theorem ppuRegister_toNat (a : Addr) : (0x2000 ||| (a &&& 0x0007)).toNat = 0x2000 + a.toNat % 8 := by
  have h := Nat.two_pow_add_eq_or_of_lt (i := 13) (b := a.toNat % 8) (by omega) 1
  rw [BitVec.toNat_or, and_seven_toNat]
  exact h.symm

/-- The register behind an address of the window is the one of the same low three bits. -/
theorem ppuRegister_eq_iff (a r : Addr) (h1 : 0x2000 ≤ r.toNat) (h2 : r.toNat < 0x2008) :
    0x2000 ||| (a &&& 0x0007) = r ↔ a &&& 0x0007 = r - 0x2000 := by
  have hsub : (r - 0x2000).toNat = r.toNat - 0x2000 := BitVec.toNat_sub_of_le h1
  rw [← BitVec.toNat_inj, ← BitVec.toNat_inj, ppuRegister_toNat, and_seven_toNat, hsub]
  omega

theorem ppuRegister_ne_strobe (a : Addr) : 0x2000 ||| (a &&& 0x0007) ≠ (0x4016 : Addr) := by
  rw [Ne, ← BitVec.toNat_inj, ppuRegister_toNat]
  have : (0x4016 : Addr).toNat = 0x4016 := rfl
  omega

/-- One byte that lands in sprite memory changes the byte at its place alone (Table R53). -/
theorem landInOam_single (start v : Byte) (oam : Vector Byte 256) (j : Fin 256) :
    (landInOam start [v] oam)[j] = if j.val = start.toNat then v else oam[j] := by
  have hsub : (BitVec.ofNat 8 j.val - start).toNat = (2 ^ 8 - start.toNat + j.val) % 2 ^ 8 := by simp
  have := start.isLt
  split
  case isTrue h =>
    have h0 : (BitVec.ofNat 8 j.val - start).toNat = 0 := by omega
    simp only [landInOam, Fin.getElem_fin, Vector.getElem_ofFn, h0]
    rfl
  case isFalse h => exact landInOam_get_other start [v] oam j (by simp only [List.length_singleton]; omega)

theorem memWrite_device (a r : Addr) (v : Byte) (s : State) (h : region a = .device r) :
    memWrite a v s = s.writeDevice r v := by
  simp [memWrite, h]

/-- A register other than those of sprite memory, the PictureBus and the strobe takes its write as an event of which the
PPU takes its part. -/
theorem writeDevice_eq (r : Addr) (v : Byte) (s : State) (hoam : r ≠ 0x2004) (hpicture : r ≠ 0x2007)
    (hstrobe : r ≠ 0x4016) : s.writeDevice r v = { s with
      io := .write r v :: s.io
      ppu := if r = 0x2000 then { s.ppu with control := v } else if r = 0x2001 then { s.ppu with mask := v } else s.ppu } := by
  simp only [State.writeDevice, State.emit, Ppu.sees, hoam, hpicture, hstrobe, if_false]

/-- An event at a register beyond the PPU's changes nothing of the PPU. -/
theorem emit_write_of_ge (a : Addr) (v : Byte) (s : State) (h : 0x4000 ≤ a.toNat) :
    s.emit (.write a v) = { s with io := .write a v :: s.io } := by
  have hne (r : Addr) (hr : r.toNat < 0x4000) : a ≠ r := by rintro rfl; omega
  simp only [State.emit, Ppu.sees, hne 0x2000 (by decide), hne 0x2001 (by decide), hne 0x2004 (by decide), if_false]

theorem emit_read_of_ge (a : Addr) (s : State) (h : 0x4000 ≤ a.toNat) :
    s.emit (.read a) = { s with io := .read a :: s.io } := by
  have hne : a ≠ 0x2002 := by rintro rfl; simp at h
  simp only [State.emit, Ppu.sees, hne, if_false]

/-- What a PictureBus address shows depends on the cartridge and the PictureBus's storage alone (20_memory.md R82). -/
theorem readPicture_congr {s t : State} (a : Addr) (hc : t.cart = s.cart) (hp : t.picture = s.picture) :
    t.readPicture a = s.readPicture a := by
  simp only [State.readPicture, State.pictureCell, State.readCell, State.targetCell, State.mirroring, hc, hp]

/-! ## The windows -/

section
variable (a : Addr) (v : Byte) (s : State)

theorem memRead_ppuWindow (h1 : 0x2000 ≤ a.toNat) (h2 : a.toNat < 0x4000) : (memRead a s).2 = { s with
    io := .read (0x2000 ||| (a &&& 0x0007)) :: s.io
    ppu := if a &&& 0x0007 = 0x0002 then { s.ppu with verticalBlank := false } else s.ppu } := by
  simp [memRead_eq, afterRead, ioAfterRead, ppuAfterRead, h1, h2]

/-- A write of the sprite memory's data register, or a mirror of it (Table R53). -/
theorem memWrite_oamData (h1 : 0x2000 ≤ a.toNat) (h2 : a.toNat < 0x4000) (h : a &&& 0x0007 = 0x0004) :
    memWrite a v s = { s with
      io := .write 0x2004 v :: s.io
      ppu := { s.ppu with oam := landInOam (Config.oamAddress s.io) [v] s.ppu.oam } } := by
  rw [memWrite_device a _ v s (region_ppu a h1 h2), h]
  simp [State.writeDevice, State.emit, Ppu.sees]

/-- A write of the PictureBus's data register, or a mirror of it (20_memory.md R82). -/
theorem memWrite_pictureData (h1 : 0x2000 ≤ a.toNat) (h2 : a.toNat < 0x4000) (h : a &&& 0x0007 = 0x0007) :
    memWrite a v s = { s with
      io := .write 0x2007 v :: s.io
      picture := s.writePicture (Config.pictureAddress s.io) v } := by
  rw [memWrite_device a _ v s (region_ppu a h1 h2), h]
  simp [State.writeDevice, State.emit, Ppu.sees]

theorem peek_pictureData (h1 : 0x2000 ≤ a.toNat) (h2 : a.toNat < 0x4000) (h : a &&& 0x0007 = 0x0007) :
    peek s a = Config.ioRead s.io s.cycles 0x2007 (.byte (s.readPicture (Config.pictureAddress s.io))) := by
  simp only [peek, memRead, region_ppu a h1 h2, h]
  rfl

theorem memWrite_ppuRegister (h1 : 0x2000 ≤ a.toNat) (h2 : a.toNat < 0x4000) (h4 : a &&& 0x0007 ≠ 0x0004)
    (h7 : a &&& 0x0007 ≠ 0x0007) : memWrite a v s = { s with
      io := .write (0x2000 ||| (a &&& 0x0007)) v :: s.io
      ppu := if a &&& 0x0007 = 0x0000 then { s.ppu with control := v }
        else if a &&& 0x0007 = 0x0001 then { s.ppu with mask := v } else s.ppu } := by
  have hreg (r : Addr) (hr : 0x2000 ≤ r.toNat ∧ r.toNat < 0x2008) := ppuRegister_eq_iff a r hr.1 hr.2
  rw [memWrite_device a _ v s (region_ppu a h1 h2), writeDevice_eq _ v s ((hreg 0x2004 (by decide)).not.2 h4)
    ((hreg 0x2007 (by decide)).not.2 h7) (ppuRegister_ne_strobe a)]
  simp only [hreg 0x2000 (by decide), hreg 0x2001 (by decide)]
  rfl

theorem memRead_zeroWindow (h1 : 0x4000 ≤ a.toNat) (h2 : a.toNat < 0x4015) : memRead a s = (0x00, s) := by
  by_cases h : a.toNat = 0x4014
  · have ha : a = 0x4014 := BitVec.eq_of_toNat_eq h
    subst ha
    rfl
  · simp [memRead, region_writeOnly a h1 (by omega)]

theorem memWrite_eventWindow (h1 : 0x4000 ≤ a.toNat) (h2 : a.toNat < 0x4018) (hdma : a ≠ 0x4014)
    (hstrobe : a ≠ 0x4016) : memWrite a v s = { s with io := .write a v :: s.io } := by
  have hne : a.toNat ≠ 0x4014 := fun h => hdma (BitVec.eq_of_toNat_eq h)
  rw [← emit_write_of_ge a v s h1]
  by_cases h : a.toNat < 0x4014
  · simp [memWrite, region_writeOnly a h1 h]
  · have hpicture : a ≠ 0x2007 := by rintro rfl; simp at h1
    rw [memWrite_device a a v s (region_apu_read a (by omega) h2)]
    simp only [State.writeDevice, State.emit, hpicture, hstrobe, if_false]

theorem memRead_apuWindow (h1 : 0x4015 ≤ a.toNat) (h2 : a.toNat < 0x4018) :
    (memRead a s).2 = { s with io := .read a :: s.io } := by
  rw [← emit_read_of_ge a s (by omega)]
  simp [memRead, region_apu_read a h1 h2]

theorem access_unregistered (h1 : 0x4018 ≤ a.toNat) (h2 : a.toNat < 0x6000) :
    memRead a s = (0x00, s) ∧ memWrite a v s = s := by
  simp [memRead, memWrite, region_unregistered a h1 h2]

theorem access_extRam (h1 : 0x6000 ≤ a.toNat) (h2 : a.toNat < 0x8000) (hext : s.hasExtRam = true) :
    memRead a s = (Memory.read s.mem a.toNat, s) ∧
      memWrite a v s = { s with mem := Memory.write s.mem a.toNat v } := by
  simp [memRead, memWrite, region_extRam a h1 h2, hext]

theorem access_no_extRam (h1 : 0x6000 ≤ a.toNat) (h2 : a.toNat < 0x8000) (hext : s.hasExtRam = false) :
    memRead a s = (0x00, s) ∧ memWrite a v s = s := by
  simp [memRead, memWrite, region_extRam a h1 h2, hext]

theorem memWrite_strobe : memWrite 0x4016 v s = { s with io := .write 0x4016 v :: s.io, pads := s.pads.strobe v } := by
  rw [memWrite_device 0x4016 0x4016 v s rfl, State.writeDevice, emit_write_of_ge 0x4016 v s (by decide)]
  rfl

theorem peek_pads : peek s 0x4016 = Config.ioRead s.io s.cycles 0x4016 (.latched s.pads.one.latched) ∧
    peek s 0x4017 = Config.ioRead s.io s.cycles 0x4017 (.latched s.pads.two.latched) := by
  simp [peek, memRead, region, State.deviceData]

end

/-- Settles O45, window by window. -/
theorem ioAndExtendedRamWindows : Obligations.IoAndExtendedRamWindows := by
  intro a v s
  refine ⟨fun h1 h2 => ⟨memRead_ppuWindow a s h1 h2, fun h4 => ?oam, fun h7 => ?picture,
    memWrite_ppuRegister a v s h1 h2⟩, memRead_zeroWindow a s, memWrite_eventWindow a v s, memWrite_strobe v s,
    memRead_apuWindow a s, peek_pads s, ⟨rfl, rfl⟩, access_unregistered a v s, fun h1 h2 hext hs => ?extRam,
    access_no_extRam a v s⟩
  case oam =>
    have hland := landInOam_single (Config.oamAddress s.io) v s.ppu.oam
    refine ⟨_, ⟨_, (Config.oamAddress s.io).isLt⟩, rfl, ?_, fun j hj => ?_, memWrite_oamData a v s h1 h2 h4⟩
    · rw [hland, if_pos rfl]
    · rw [hland, if_neg fun h => hj (Fin.ext h)]
  case picture =>
    have hwrite := memWrite_pictureData a v s h1 h2 h7
    refine ⟨peek_pictureData a s h1 h2 h7, by rw [hwrite], fun hs p => ?_⟩
    rw [← readPicture_writePicture s (Config.pictureAddress s.io) p v (State.legal_picture hs), hwrite]
    exact readPicture_congr p rfl rfl
  case extRam =>
    obtain ⟨hread, hwrite⟩ := access_extRam a v s h1 h2 hext
    refine ⟨hread, ?_, hwrite⟩
    have hback : memRead a (memWrite a v s) = (Memory.read (memWrite a v s).mem a.toNat, memWrite a v s) :=
      (access_extRam a v _ h1 h2 ((hasExtRam_of_imageOf (imageOf_memWrite a v s)).trans hext)).1
    rw [peek, hback, hwrite]
    exact Memory.read_write_same a.toNat v (State.legal_mem hs)

end Sys2Proof.Machine
end

section
/-! PROOFS. The cartridge behind the program window (spec 20_memory.md R58, R70-R74): what a read there answers, what a
write there does by mapper, and the shift-register mapper's three kinds of write (R72). -/

namespace Sys2Proof.Machine

/-! ## The bus -/

/-- A read of the program window is the mapper's (20_memory.md R58). -/
theorem peek_cart {s : State} {c : Cartridge} (a : Addr) (hc : s.cart = some c) (ha : 0x8000 ≤ a.toNat) :
    peek s a = Memory.read c.prg (c.prgCell a) := by
  simp [peek, memRead, region_program a ha, State.readProgram, hc, Cartridge.readProgram]

/-- A write to the program window is a command to the mapper and changes nothing but the cartridge (20_memory.md R58). -/
theorem memWrite_cart_command {s : State} {c : Cartridge} (a : Addr) (v : Byte) (hc : s.cart = some c)
    (ha : 0x8000 ≤ a.toNat) : memWrite a v s = { s with cart := some (c.writeProgram a v) } := by
  simp [memWrite, region_program a ha, hc]

/-! ## The mapper's writes -/

theorem writeProgram_fixed {c : Cartridge} (a : Addr) (v : Byte) (h : c.mapper = .fixed) : c.writeProgram a v = c := by
  simp [Cartridge.writeProgram, h]

theorem writeProgram_switchPrg {c : Cartridge} {select : Byte} (a : Addr) (v : Byte) (h : c.mapper = .switchPrg select) :
    c.writeProgram a v = { c with mapper := .switchPrg v } := by
  simp [Cartridge.writeProgram, h]

theorem writeProgram_switchChr {c : Cartridge} {bank : BitVec 2} (a : Addr) (v : Byte) (h : c.mapper = .switchChr bank) :
    c.writeProgram a v = { c with mapper := .switchChr (v.setWidth 2) } := by
  simp [Cartridge.writeProgram, h]

theorem writeProgram_shiftReg {c : Cartridge} {r : ShiftRegs} (a : Addr) (v : Byte) (h : c.mapper = .shiftReg r) :
    c.writeProgram a v = c.shiftWrite r a v := by
  simp [Cartridge.writeProgram, h]

/-! ## The shift register (20_memory.md R72) -/

theorem shiftWrite_reset (c : Cartridge) (r : ShiftRegs) (a : Addr) (v : Byte) (h : 0x80 ≤ v.toNat) :
    c.shiftWrite r a v = { c with mapper := .shiftReg { r with shift := [], fixedLast := true } } := by
  have hmsb : v.msb = true := by simpa [BitVec.msb_eq_decide] using h
  simp [Cartridge.shiftWrite, hmsb]

theorem msb_eq_false_of_lt {v : Byte} (h : v.toNat < 0x80) : v.msb = false := by
  simpa [BitVec.msb_eq_decide] using h

theorem shiftWrite_shift (c : Cartridge) (r : ShiftRegs) (a : Addr) (v : Byte) (h : v.toNat < 0x80)
    (hlen : r.shift.length < 4) :
    c.shiftWrite r a v = { c with mapper := .shiftReg { r with shift := r.shift ++ [v] } } := by
  simp [Cartridge.shiftWrite, msb_eq_false_of_lt h, hlen]

/-- The fifth write with bit 7 clear: the assembled value goes to the register the address selects. -/
theorem shiftWrite_dispatch (c : Cartridge) (r : ShiftRegs) (a : Addr) (v : Byte) (h : v.toNat < 0x80)
    (hlen : r.shift.length = 4) :
    c.shiftWrite r a v = { c with
      mapper := .shiftReg
        { shift := []
          regs := r.regs.set (shiftRegisterOf a).val (Config.shiftAssemble (r.shift ++ [v])) (shiftRegisterOf a).isLt
          fixedLast :=
            Config.shiftFixedLast (shiftRegisterOf a) (Config.shiftAssemble (r.shift ++ [v])) r.fixedLast }
      mirroring := if a.toNat < 0xA000 then mirroringOf (Config.shiftAssemble (r.shift ++ [v]))
        else Config.shiftMirroring a (Config.shiftAssemble (r.shift ++ [v])) c.mirroring } := by
  simp [Cartridge.shiftWrite, msb_eq_false_of_lt h, hlen]

/-- The mirroring mode of the low two bits (95_test_vectors.md S2). -/
theorem mirroringOf_low_bits (value : BitVec 5) :
    (value.extractLsb' 0 2 = 0 → mirroringOf value = .oneScreenLow) ∧
    (value.extractLsb' 0 2 = 1 → mirroringOf value = .oneScreenHigh) ∧
    (value.extractLsb' 0 2 = 2 → mirroringOf value = .vertical) ∧
    (value.extractLsb' 0 2 = 3 → mirroringOf value = .horizontal) := by
  revert value
  decide

/-- Settles O47, by the three kinds of write. -/
theorem shiftRegisterMapperDispatchesFifthWrite : Obligations.ShiftRegisterMapperDispatchesFifthWrite := by
  intro c r a v hmapper _
  rw [writeProgram_shiftReg a v hmapper]
  refine ⟨fun s hc ha => ?bus, shiftWrite_reset c r a v, shiftWrite_shift c r a v, fun hv hlen _ => ?dispatch⟩
  case bus => rw [memWrite_cart_command a v hc ha, writeProgram_shiftReg a v hmapper]
  case dispatch =>
    rw [shiftWrite_dispatch c r a v hv hlen]
    refine ⟨_, _, shiftRegisterOf a, rfl, rfl, rfl, rfl, rfl, ?_, fun j hj => ?_, fun hlow => ?_⟩
    · simp
    · have hne : (shiftRegisterOf a).val ≠ j.val := fun h => hj (Fin.ext h.symm)
      simp [hne]
    · simp only [hlow, if_true]
      exact mirroringOf_low_bits _

end Sys2Proof.Machine
end

section
/-! PROOFS. What the program window, the graphics memory and the nametables show, by mapper and mirroring mode (spec
20_memory.md R70-R75, R82): the cell behind an address, in closed form. -/

namespace Sys2Proof.Machine

/-! ## Cells of the program image -/

/-- A place in one of `n` banks of `size` bytes lies within them all. -/
theorem bank_place_mod {size k n : Nat} (o : Nat) (hsize : 0 < size) (hk : k < n) :
    (k * size + o % size) % (size * n) = k * size + o % size := by
  refine Nat.mod_eq_of_lt ?_
  have ho := Nat.mod_lt o hsize
  calc k * size + o % size < (k + 1) * size := by rw [Nat.add_mul]; omega
    _ ≤ n * size := Nat.mul_le_mul_right size hk
    _ = size * n := Nat.mul_comm n size

section
variable {c : Cartridge} (a : Addr)

/-- The window of a mapper with a fixed program shows the image from 0x8000 on (20_memory.md R71, R74). -/
theorem prgCell_fixed (h : c.mapper = .fixed ∨ ∃ bank, c.mapper = .switchChr bank) :
    c.prgCell a = (a.toNat - 0x8000) % (0x4000 * c.prgBanks.toNat) := by
  rcases h with h | ⟨bank, h⟩ <;> simp [Cartridge.prgCell, Cartridge.prgOffset, Cartridge.prgSize, h]

/-- A single fixed bank is mirrored. -/
theorem prgCell_one_bank (h : c.mapper = .fixed ∨ ∃ bank, c.mapper = .switchChr bank) (hbanks : c.prgBanks = 1)
    (ha : 0x8000 ≤ a.toNat) : c.prgCell a = a.toNat % 0x4000 := by
  have hsize : 0x4000 * c.prgBanks.toNat = 0x4000 := by rw [hbanks]; rfl
  rw [prgCell_fixed a h, hsize]
  omega

theorem prgCell_two_banks (h : c.mapper = .fixed ∨ ∃ bank, c.mapper = .switchChr bank) (hbanks : c.prgBanks = 2) :
    c.prgCell a = a.toNat - 0x8000 := by
  have hsize : 0x4000 * c.prgBanks.toNat = 0x8000 := by rw [hbanks]; rfl
  have := a.isLt
  rw [prgCell_fixed a h, hsize]
  omega

/-- The low half of the switchable-program mapper's window shows the selected bank (20_memory.md R73). -/
theorem prgCell_selected {select : Byte} (h : c.mapper = .switchPrg select) (hbanks : 1 ≤ c.prgBanks.toNat)
    (ha : a.toNat < 0xC000) :
    c.prgCell a = (select.toNat % c.prgBanks.toNat) * 0x4000 + a.toNat % 0x4000 := by
  simp only [Cartridge.prgCell, Cartridge.prgOffset, Cartridge.prgSize, h, ha, if_true]
  exact bank_place_mod _ (by decide) (Nat.mod_lt _ hbanks)

/-- The high half shows the last bank (R73). -/
theorem prgCell_last {select : Byte} (h : c.mapper = .switchPrg select) (hbanks : 1 ≤ c.prgBanks.toNat)
    (ha : 0xC000 ≤ a.toNat) : c.prgCell a = (c.prgBanks.toNat - 1) * 0x4000 + a.toNat % 0x4000 := by
  simp only [Cartridge.prgCell, Cartridge.prgOffset, Cartridge.prgSize, h, if_neg (Nat.not_lt.2 ha)]
  exact bank_place_mod _ (by decide) (by omega)

theorem prgCell_shiftReg {r : ShiftRegs} (h : c.mapper = .shiftReg r) :
    c.prgCell a = Config.shiftPrgOffset r.regs r.fixedLast a % (0x4000 * c.prgBanks.toNat) := by
  simp only [Cartridge.prgCell, Cartridge.prgOffset, Cartridge.prgSize, h]

end

/-! ## Graphics memory -/

section
variable {s : State} {c : Cartridge} (a : Addr) (hc : s.cart = some c)

theorem graphicsCell_image (hbanks : 1 ≤ c.chrBanks.toNat) :
    c.graphicsCell a = .graphicsRom (c.graphicsOffset a % (0x2000 * c.chrBanks.toNat)) := by
  have hne : c.chrBanks ≠ 0 := fun h => by simp [h] at hbanks
  simp only [Cartridge.graphicsCell, Cartridge.chrSize, hne, if_false]

theorem graphicsOffset_fixed (h : c.mapper = .fixed ∨ ∃ select, c.mapper = .switchPrg select) :
    c.graphicsOffset a = a.toNat % 0x2000 := by
  rcases h with h | ⟨select, h⟩ <;> simp [Cartridge.graphicsOffset, h]

theorem graphicsOffset_selected {bank : BitVec 2} (h : c.mapper = .switchChr bank) :
    c.graphicsOffset a = bank.toNat * 0x2000 + a.toNat % 0x2000 := by
  simp [Cartridge.graphicsOffset, h]

theorem graphicsOffset_shiftReg {r : ShiftRegs} (h : c.mapper = .shiftReg r) :
    c.graphicsOffset a = Config.shiftChrOffset r.regs a := by
  simp [Cartridge.graphicsOffset, h]

/-- Without graphics data the mapper's 8 KiB of graphics RAM show everywhere, whatever bank is selected (20_memory.md R71,
R75). -/
theorem graphicsCell_ram (hbanks : c.chrBanks = 0) (hmapper : ∀ r, c.mapper ≠ .shiftReg r) :
    c.graphicsCell a = .graphicsRam (a.toNat % 0x2000) := by
  have hoffset : c.graphicsOffset a % 0x2000 = a.toNat % 0x2000 := by
    cases h : c.mapper with
    | fixed => rw [graphicsOffset_fixed a (.inl h), Nat.mod_mod]
    | switchPrg select => rw [graphicsOffset_fixed a (.inr ⟨select, h⟩), Nat.mod_mod]
    | switchChr bank => rw [graphicsOffset_selected a h]; omega
    | shiftReg r => exact absurd h (hmapper r)
  simp only [Cartridge.graphicsCell, Cartridge.chrSize, hbanks, if_true, hoffset]

include hc

theorem targetCell_graphics : s.targetCell (.graphics a) = c.graphicsCell a := by
  simp [State.targetCell, hc]

theorem readGraphics_image (hbanks : 1 ≤ c.chrBanks.toNat) :
    s.readGraphics a = Memory.read c.chr (c.graphicsOffset a % (0x2000 * c.chrBanks.toNat)) := by
  rw [State.readGraphics, targetCell_graphics a hc, graphicsCell_image a hbanks]
  simp [State.readCell, hc]

/-- The graphics image takes no write (R75). -/
theorem writeGraphics_image (v : Byte) (hbanks : 1 ≤ c.chrBanks.toNat) : s.writeGraphics a v = s := by
  rw [State.writeGraphics, targetCell_graphics a hc, graphicsCell_image a hbanks]
  rfl

/-- Graphics RAM shows what was written last at every address equal modulo its size, and elsewhere what it did. -/
theorem readGraphics_writeGraphics_ram (b : Addr) (v : Byte) (hbanks : c.chrBanks = 0)
    (hmapper : ∀ r, c.mapper ≠ .shiftReg r) (hs : s.legal = true) :
    (s.writeGraphics a v).readGraphics b =
      if b.toNat % 0x2000 = a.toNat % 0x2000 then v else s.readGraphics b := by
  have hcell (x : Addr) : s.targetCell (.graphics x) = .graphicsRam (x.toNat % 0x2000) := by
    rw [targetCell_graphics x hc, graphicsCell_ram x hbanks hmapper]
  have hread := readCell_writeCell s (s.targetCell (.graphics a)) (s.targetCell (.graphics b)) v (State.legal_picture hs)
  simp only [hcell, PictureCell.graphicsRam.injEq, PictureCell.isRam, and_true] at hread
  rw [State.readGraphics, State.readGraphics, hcell b, ← hread, State.writeGraphics, hcell a]
  exact congrArg (State.readCell · _) (hcell b)

end

/-! ## Nametables -/

/-- Which logical nametables share a bank (20_memory.md R82). -/
theorem nametableBank_eq_iff (m : Mirroring) (bottom right bottom' right' : Bool) :
    nametableBank m bottom right = nametableBank m bottom' right' ↔
      (m = .horizontal → bottom = bottom') ∧ (m = .vertical → right = right') ∧
        (m = .fourScreen → bottom = bottom' ∧ right = right') := by
  cases m <;> revert bottom right bottom' right' <;> decide

theorem targetCell_nametable_eq_iff {s : State} {c : Cartridge} (hc : s.cart = some c) (bottom right bottom' right' : Bool)
    (i j : Addr) :
    s.targetCell (.nametable bottom right i) = s.targetCell (.nametable bottom' right' j) ↔
      i = j ∧ nametableBank c.mirroring bottom right = nametableBank c.mirroring bottom' right' := by
  simp [State.targetCell, State.mirroring, hc, and_comm]

/-- Settles O46, from the cell behind an address of each window. -/
theorem programWindowShowsSelectedBanks : Obligations.ProgramWindowShowsSelectedBanks := by
  refine ⟨fun s c a hc ha hbanks => ?program, fun s c a v hc => ?graphics, fun s c _ _ _ _ i j hc => ?nametables⟩
  case program =>
    have hprg := peek_cart a hc ha
    refine ⟨fun h h1 => ?_, fun h h2 => ?_, fun _ h hlow => ?_, fun _ h hhigh => ?_, fun _ h => ?_, fun v w h hw => ?_,
      fun old v w h hw => ?_, fun old v w h hw => ?_⟩
    · rw [hprg, prgCell_one_bank a h h1 ha]
    · rw [hprg, prgCell_two_banks a h h2]
    · rw [hprg, prgCell_selected a h hbanks hlow]
    · rw [hprg, prgCell_last a h hbanks hhigh]
    · rw [hprg, prgCell_shiftReg a h]
    · rw [memWrite_cart_command w v hc hw, writeProgram_fixed w v h, ← hc]
    · have hwrite := memWrite_cart_command w v hc hw
      rw [writeProgram_switchChr w v h] at hwrite
      refine ⟨?_, v.setWidth 2, ?_, hwrite⟩
      · rw [hprg, peek_cart a (by rw [hwrite]) ha, prgCell_fixed a (.inr ⟨old, h⟩), prgCell_fixed a (.inr ⟨_, rfl⟩)]
      · rw [BitVec.toNat_setWidth, BitVec.toNat_and]
        exact (Nat.and_two_pow_sub_one_eq_mod v.toNat 2).symm
    · have hwrite := memWrite_cart_command w v hc hw
      rw [writeProgram_switchPrg w v h] at hwrite
      have hprg' := peek_cart a (congrArg State.cart hwrite) ha
      exact ⟨hwrite, fun hlow => hprg'.trans (congrArg (Memory.read c.prg) (prgCell_selected a rfl hbanks hlow)),
        fun hhigh => hprg'.trans (congrArg (Memory.read c.prg) (prgCell_last a rfl hbanks hhigh))⟩
  case graphics =>
    refine ⟨fun hbanks => ?image, fun hbanks hs hmapper b => readGraphics_writeGraphics_ram a hc b v hbanks hmapper hs⟩
    have hchr := readGraphics_image a hc hbanks
    refine ⟨writeGraphics_image a hc v hbanks, fun h => ?_, fun g h => ?_, fun r h => ?_⟩
    · rw [hchr, graphicsOffset_fixed a h, Nat.mod_eq_of_lt (by omega)]
    · rw [hchr, graphicsOffset_selected a h]
      exact ⟨rfl, fun hg => by rw [bank_place_mod a.toNat (by decide) hg]⟩
    · rw [hchr, graphicsOffset_shiftReg a h]
  case nametables => rw [targetCell_nametable_eq_iff hc, nametableBank_eq_iff]

end Sys2Proof.Machine
end

section
/-! PROOFS. Loading a cartridge (spec 20_memory.md R70, R71, R75; 70_reset_and_hazards.md R330): the bytes an image's
memories hold, and which images load as what. -/

namespace Sys2Proof.Machine

/-! ## Bytes at consecutive addresses -/

theorem Memory.read_ofBytes_below (vs : List Byte) {k a : Nat} (h : a < k) :
    Memory.read (Memory.ofBytes k vs) a = Memory.unlisted := by
  induction vs generalizing k with
  | nil => rfl
  | cons v vs ih => rw [Memory.ofBytes, Memory.read_cons_other _ _ _ _ (by omega), ih (by omega)]

theorem Memory.read_ofBytes (vs : List Byte) {k a : Nat} (h : k ≤ a) :
    Memory.read (Memory.ofBytes k vs) a = vs.getD (a - k) 0 := by
  induction vs generalizing k with
  | nil => rfl
  | cons v vs ih =>
    rw [Memory.ofBytes]
    obtain rfl | hlt := Nat.eq_or_lt_of_le h
    · rw [Memory.read_cons_same _ _ _ (Memory.read_ofBytes_below vs (Nat.lt_succ_self k)), Nat.sub_self]
      rfl
    · have hsub : a - k = a - (k + 1) + 1 := by omega
      rw [Memory.read_cons_other _ _ _ _ (by omega), ih hlt, hsub]
      rfl

/-- A piece of an image, by its place in the whole. -/
theorem getD_take_drop (bytes : List Byte) {start size k : Nat} (h : k < size) :
    ((bytes.drop start).take size).getD k 0 = bytes.getD (start + k) 0 := by
  simp [List.getD_eq_getElem?_getD, h]

/-! ## Which images load -/

/-- The mapper id of an image's header: the high nibbles of bytes 7 and 6 (20_memory.md R75). -/
def imageMapperId (image : List Byte) : Byte := (image.getD 7 0 &&& 0xF0) ||| (image.getD 6 0 >>> 4)

theorem Mapper.ofId_eq_none {id : Byte} (h : 3 < id.toNat) : Mapper.ofId id = none := by
  unfold Mapper.ofId
  split
  case h_5 => rfl
  all_goals omega

theorem Mapper.ofId_isSome {id : Byte} (h : id.toNat ≤ 3) : ∃ m, Mapper.ofId id = some m := by
  unfold Mapper.ofId
  generalize id.toNat = n at h
  interval_cases n <;> exact ⟨_, rfl⟩

/-- The variant of each mapper id, with its registers at insertion (log entry 15). -/
theorem Mapper.ofId_variants {id : Byte} {m : Mapper} (h : Mapper.ofId id = some m) :
    (id.toNat = 0 → m = .fixed) ∧
    (id.toNat = 1 →
      m = .shiftReg { shift := [], regs := Config.insertedRegs, fixedLast := Config.insertedFixedLast }) ∧
    (id.toNat = 2 → m = .switchPrg Config.insertedBank) ∧ (id.toNat = 3 → m = .switchChr Config.insertedChrBank) := by
  unfold Mapper.ofId at h
  generalize id.toNat = n at h
  refine ⟨?_, ?_, ?_, ?_⟩ <;> rintro rfl <;> exact (Option.some.inj h).symm

/-- The cartridge an image with this mapper loads as. -/
def Cartridge.ofData (image : List Byte) (mapper : Mapper) : Cartridge :=
  { mapper := mapper
    prgBanks := image.getD 4 0
    chrBanks := image.getD 5 0
    extRam := (image.getD 6 0).getLsbD 1
    mirroring := Mirroring.ofHeader (image.getD 6 0)
    prg := Memory.ofBytes 0 ((image.drop 16).take (16384 * (image.getD 4 0).toNat))
    chr := Memory.ofBytes 0
      ((image.drop (16 + 16384 * (image.getD 4 0).toNat)).take (8192 * (image.getD 5 0).toNat)) }

theorem Cartridge.ofImage_eq (image : List Byte) : Cartridge.ofImage image =
    if image.take 4 = imageMagic ∧
        16 + 16384 * (image.getD 4 0).toNat + 8192 * (image.getD 5 0).toNat ≤ image.length then
      (Mapper.ofId (imageMapperId image)).map (Cartridge.ofData image)
    else none := rfl

theorem Cartridge.ofImage_eq_none {image : List Byte} (h : image.take 4 ≠ imageMagic ∨ 3 < (imageMapperId image).toNat) :
    Cartridge.ofImage image = none := by
  rw [Cartridge.ofImage_eq]
  rcases h with h | h
  · exact if_neg fun hi => h hi.1
  · rw [Mapper.ofId_eq_none h]
    exact ite_self none

theorem Cartridge.ofImage_isSome {image : List Byte} (hmagic : image.take 4 = imageMagic)
    (hid : (imageMapperId image).toNat ≤ 3)
    (hlen : 16 + 16384 * (image.getD 4 0).toNat + 8192 * (image.getD 5 0).toNat ≤ image.length) :
    ∃ c, Cartridge.ofImage image = some c := by
  obtain ⟨m, hm⟩ := Mapper.ofId_isSome hid
  exact ⟨Cartridge.ofData image m, by rw [Cartridge.ofImage_eq, if_pos ⟨hmagic, hlen⟩, hm]; rfl⟩

/-- Everything a load that succeeds can answer. -/
theorem Cartridge.ofImage_cases {image : List Byte} {c : Cartridge} (h : Cartridge.ofImage image = some c) :
    ∃ m, Mapper.ofId (imageMapperId image) = some m ∧ c = Cartridge.ofData image m := by
  rw [Cartridge.ofImage_eq] at h
  split at h
  · obtain ⟨m, hm, rfl⟩ := Option.map_eq_some_iff.1 h
    exact ⟨m, hm, rfl⟩
  · cases h

theorem hostEvent_load_none {image : List Byte} (s : State) (h : Cartridge.ofImage image = none) :
    hostEvent (.loadCartridge image) s = s := by
  simp [hostEvent, h]

theorem hostEvent_load_some {image : List Byte} {c : Cartridge} (s : State) (h : Cartridge.ofImage image = some c) :
    hostEvent (.loadCartridge image) s = s.insert c := by
  simp [hostEvent, h]

/-! ## What a loaded image holds and shows -/

section
variable (image : List Byte) (m : Mapper) {k : Nat}

/-- The program data follow the header. -/
theorem read_prg_ofData (h : k < 16384 * (image.getD 4 0).toNat) :
    Memory.read (Cartridge.ofData image m).prg k = image.getD (16 + k) 0 := by
  rw [Cartridge.ofData, Memory.read_ofBytes _ (Nat.zero_le k)]
  exact getD_take_drop image h

/-- The graphics data follow the program data. -/
theorem read_chr_ofData (h : k < 8192 * (image.getD 5 0).toNat) :
    Memory.read (Cartridge.ofData image m).chr k = image.getD (16 + 16384 * (image.getD 4 0).toNat + k) 0 := by
  rw [Cartridge.ofData, Memory.read_ofBytes _ (Nat.zero_le k)]
  exact getD_take_drop image h

end

section
variable {s : State} {c : Cartridge} {k : Nat} (hc : s.cart = some c) (hfixed : c.mapper = .fixed)
include hc hfixed

/-- Two fixed banks fill the program window (20_memory.md R71). -/
theorem peek_two_banks (hbanks : c.prgBanks = 2) (hk : k < 0x8000) :
    peek s (BitVec.ofNat 16 (0x8000 + k)) = Memory.read c.prg k := by
  have ha : (BitVec.ofNat 16 (0x8000 + k)).toNat = 0x8000 + k := Nat.mod_eq_of_lt (by omega)
  rw [peek_cart _ hc (by omega), prgCell_two_banks _ (.inl hfixed) hbanks, ha, Nat.add_sub_cancel_left]

/-- One fixed bank shows in both halves of the program window (20_memory.md R71). -/
theorem peek_one_bank (hbanks : c.prgBanks = 1) (hk : k < 0x4000) :
    peek s (BitVec.ofNat 16 (0x8000 + k)) = Memory.read c.prg k ∧
      peek s (BitVec.ofNat 16 (0xC000 + k)) = Memory.read c.prg k := by
  have hlow : (BitVec.ofNat 16 (0x8000 + k)).toNat = 0x8000 + k := Nat.mod_eq_of_lt (by omega)
  have hhigh : (BitVec.ofNat 16 (0xC000 + k)).toNat = 0xC000 + k := Nat.mod_eq_of_lt (by omega)
  have hcell (a : Addr) (ha : 0x8000 ≤ a.toNat) : peek s a = Memory.read c.prg (a.toNat % 0x4000) := by
    rw [peek_cart a hc ha, prgCell_one_bank a (.inl hfixed) hbanks ha]
  constructor
  · rw [hcell _ (by omega), hlow]
    exact congrArg (Memory.read c.prg) (by omega)
  · rw [hcell _ (by omega), hhigh]
    exact congrArg (Memory.read c.prg) (by omega)

/-- A fixed-bank cartridge with graphics data shows the first bank of them (20_memory.md R71; log entry 38). -/
theorem readGraphics_first_bank (hbanks : 1 ≤ c.chrBanks.toNat) (hk : k < 0x2000) :
    s.readGraphics (BitVec.ofNat 16 k) = Memory.read c.chr k := by
  have ha : (BitVec.ofNat 16 k).toNat = k := Nat.mod_eq_of_lt (by omega)
  have hmod : k % 0x2000 % (0x2000 * c.chrBanks.toNat) = k := by
    rw [Nat.mod_eq_of_lt hk, Nat.mod_eq_of_lt (by omega)]
  rw [readGraphics_image _ hc hbanks, graphicsOffset_fixed _ (.inl hfixed), ha, hmod]

end

/-- Settles O57: an image loads as `Cartridge.ofData` of its mapper, or not at all. -/
theorem loadCartridgeInstallsImageOrNothing : Obligations.LoadCartridgeInstallsImageOrNothing := by
  intro image s id
  refine ⟨fun h => hostEvent_load_none s (Cartridge.ofImage_eq_none h), Cartridge.ofImage_isSome, fun c hload => ?_⟩
  rw [hostEvent_load_some s hload]
  have hcart : (s.insert c).cart = some c := rfl
  obtain ⟨m, hm, rfl⟩ := Cartridge.ofImage_cases hload
  obtain ⟨h0, h1, h2, h3⟩ := Mapper.ofId_variants hm
  refine ⟨hcart, rfl, rfl, rfl, rfl, h0, h1, h2, h3, fun k hk => read_prg_ofData image m hk,
    fun k hk => read_chr_ofData image m hk, fun k hfixed hbanks hk => ?two, fun k hfixed hbanks hk => ?one,
    fun k hfixed hbanks hk => ?graphics⟩
  case two =>
    have hsize : k < 16384 * (image.getD 4 0).toNat := by rw [show image.getD 4 0 = 2 from hbanks]; exact hk
    rw [← read_prg_ofData image m hsize]
    exact peek_two_banks hcart hfixed hbanks hk
  case one =>
    have hsize : k < 16384 * (image.getD 4 0).toNat := by rw [show image.getD 4 0 = 1 from hbanks]; exact hk
    rw [← read_prg_ofData image m hsize]
    exact peek_one_bank hcart hfixed hbanks hk
  case graphics =>
    have hsize : k < 8192 * (image.getD 5 0).toNat := Nat.lt_of_lt_of_le hk (Nat.le_mul_of_pos_right 8192 hbanks)
    exact (readGraphics_first_bank hcart hfixed hbanks hk).trans (read_chr_ofData image m hsize)

end Sys2Proof.Machine
end

section
/-! PROOFS. The encoder against the decoder (spec 30_encoding.md R90, R92, R107, R108, R110, R111): the instruction of an
opcode byte carries that opcode and the operand bytes its mode takes, and an instruction's own bytes make it again. -/

namespace Sys2Proof

/-! ## The encoder's parts -/

/-! As many operand bytes are written as the mode has (Table R90). -/

@[simp] theorem Mem.length_bytes (m : Mem) : m.bytes.length = m.operandBytes := by
  cases m <;> rfl

@[simp] theorem Src.length_bytes (o : Src) : o.bytes.length = o.operandBytes := by
  cases o with
  | imm v => rfl
  | mem m => exact m.length_bytes

@[simp] theorem Shf.length_bytes (o : Shf) : o.bytes.length = o.operandBytes := by
  cases o with
  | acc => rfl
  | mem m => exact m.length_bytes

@[simp] theorem Instr.length_bytes (i : Instr) : i.bytes.length = i.operandBytes := by
  cases i with
  | lda o | ldx o | ldy o | adc o | sbc o | cmp o | cpx o | cpy o | and o | ora o | eor o => exact o.length_bytes
  | sta m | stx m | sty m | inc m | dec m | bit m => exact m.length_bytes
  | asl o | lsr o | rol o | ror o => exact o.length_bytes
  | jmp t => cases t <;> rfl
  | _ => rfl

/-- The operand forms of R107 are those with an opcode in the encoding tables (Tables R130 to R229). -/
theorem wf_eq_isSome_opcode (i : Instr) : i.wf = i.opcode.isSome := by
  cases i with
  | lda o | ldx o | ldy o | adc o | sbc o | cmp o | cpx o | cpy o | and o | ora o | eor o =>
    rcases o with v | m
    · rfl
    · cases m <;> rfl
  | sta m | stx m | sty m | inc m | dec m | bit m => cases m <;> rfl
  | asl o | lsr o | rol o | ror o =>
    rcases o with _ | m
    · rfl
    · cases m <;> rfl
  | jmp t => cases t <;> rfl
  | illegal op => cases h : isIllegal op <;> simp [Instr.wf, Instr.opcode, h]
  | _ => rfl

theorem encode_of_opcode {i : Instr} {op : Byte} (h : i.opcode = some op) : encode i = op :: i.bytes := by
  simp only [encode, h]

/-! ## The opcode matrix -/

/-- No byte of Table R110 stands in the opcode matrix. -/
theorem matrix_of_isIllegal {op : Byte} (b1 b2 : Byte) (h : isIllegal op = true) : matrix op b1 b2 = none := by
  unfold isIllegal at h
  unfold matrix
  rw [List.contains_iff_mem] at h
  generalize op.toNat / 16 = hi, op.toNat % 16 = lo at h
  dsimp only
  split
  case h_17 => rfl
  all_goals
    simp only [illegalLows] at h
    fin_cases h <;> rfl

/-- Entry by entry of the matrix: the operand bytes have no part in which opcode an entry encodes to and how many operand
bytes it has, and it encodes them in the order they were read. -/
theorem ofBytes_operands (op b1 b2 : Byte) :
    (ofBytes op b1 b2).opcode = (ofBytes op 0 0).opcode ∧
      (ofBytes op b1 b2).bytes = [b1, b2].take (operandCount op) := by
  unfold operandCount ofBytes matrix
  generalize op.toNat / 16 = hi, op.toNat % 16 = lo
  dsimp only
  split
  case h_17 => exact ⟨rfl, rfl⟩
  all_goals
    simp only [matrixRow0, matrixRow1, matrixRow2, matrixRow3, matrixRow4, matrixRow5, matrixRow6, matrixRow7, matrixRow8,
      matrixRow9, matrixRowA, matrixRowB, matrixRowC, matrixRowD, matrixRowE, matrixRowF]
    split
    all_goals
      refine ⟨rfl, ?_⟩
      simp [Instr.bytes, Src.bytes, Mem.bytes, Shf.bytes, Target.bytes, Instr.operandBytes, Src.operandBytes,
        Mem.operandBytes, Shf.operandBytes]

/-- The instruction of an opcode byte encodes with that opcode: the matrix (Table R108) and Table R110 against the
encoding tables, over the 256 opcodes. -/
theorem opcode_ofBytes (op b1 b2 : Byte) : (ofBytes op b1 b2).opcode = some op := by
  have hzero : ∀ op, (ofBytes op 0 0).opcode = some op := by decide
  rw [(ofBytes_operands op b1 b2).1, hzero]

theorem bytes_ofBytes (op b1 b2 : Byte) : (ofBytes op b1 b2).bytes = [b1, b2].take (operandCount op) :=
  (ofBytes_operands op b1 b2).2

theorem operandCount_le_two (op : Byte) : operandCount op ≤ 2 := by
  revert op
  decide

/-- The opcode alone fixes the number of operand bytes (R90, R111). -/
@[simp] theorem operandBytes_ofBytes (op b1 b2 : Byte) : (ofBytes op b1 b2).operandBytes = operandCount op := by
  rw [← Instr.length_bytes, bytes_ofBytes, List.length_take]
  exact Nat.min_eq_left (operandCount_le_two op)

/-- An instruction's own opcode and operand bytes make it again, whatever follows them. -/
theorem ofBytes_of_opcode {i : Instr} {op : Byte} (h : i.opcode = some op) (rest : List Byte) :
    ofBytes op ((i.bytes ++ rest).getD 0 0) ((i.bytes ++ rest).getD 1 0) = i := by
  cases i with
  | lda o | ldx o | ldy o | adc o | sbc o | cmp o | cpx o | cpy o | and o | ora o | eor o =>
    rcases o with v | m
    · cases h; rfl
    · cases m with
      | abs w | absx w | absy w => cases h <;> (conv_rhs => rw [← word16_hiByte_loByte w]) <;> rfl
      | _ => cases h <;> rfl
  | sta m | stx m | sty m | inc m | dec m | bit m =>
    cases m with
    | abs w | absx w | absy w => cases h <;> (conv_rhs => rw [← word16_hiByte_loByte w]) <;> rfl
    | _ => cases h <;> rfl
  | asl o | lsr o | rol o | ror o =>
    rcases o with _ | m
    · cases h; rfl
    · cases m with
      | abs w | absx w | absy w => cases h <;> (conv_rhs => rw [← word16_hiByte_loByte w]) <;> rfl
      | _ => cases h <;> rfl
  | jmp t =>
    cases t with
    | abs w | ind w =>
      cases h
      conv_rhs => rw [← word16_hiByte_loByte w]
      rfl
  | jsr w =>
    cases h
    conv_rhs => rw [← word16_hiByte_loByte w]
    rfl
  | illegal b =>
    obtain ⟨hb, rfl⟩ : isIllegal b = true ∧ b = op := by simpa [Instr.opcode] using h
    rw [ofBytes, matrix_of_isIllegal _ _ hb, Option.getD_none]
  | _ => cases h; rfl

theorem operandCount_of_opcode {i : Instr} {op : Byte} (h : i.opcode = some op) : operandCount op = i.operandBytes := by
  rw [← operandBytes_ofBytes op, ofBytes_of_opcode h []]

/-- Operand bytes the mode does not take are not looked at (R90). -/
theorem ofBytes_take (op b1 b2 : Byte) :
    ofBytes op (([b1, b2].take (operandCount op)).getD 0 0) (([b1, b2].take (operandCount op)).getD 1 0) =
      ofBytes op b1 b2 := by
  have h := ofBytes_of_opcode (opcode_ofBytes op b1 b2) []
  rwa [List.append_nil, bytes_ofBytes] at h

/-! ## The decoder -/

/-- Everything `decode` can answer of an opcode byte and the bytes after it. -/
theorem decode_cons_eq_ok_iff {op : Byte} {more rest : List Byte} {i : Instr} :
    decode (op :: more) = .ok (i, rest) ↔ operandCount op ≤ more.length ∧
      ofBytes op (more.getD 0 0) (more.getD 1 0) = i ∧ more.drop (operandCount op) = rest := by
  unfold decode
  dsimp only
  split
  next hshort => simp only [reduceCtorEq, Nat.not_le.2 hshort, false_and]
  next hlong => simp only [Except.ok.injEq, Prod.mk.injEq, Nat.not_lt.1 hlong, true_and]

/-- Where no more bytes are taken than there are, the bytes the decoder looks at are those of the list. -/
theorem take_getD_pair (bytes : List Byte) {n : Nat} (hn : n ≤ 2) (hlen : n ≤ bytes.length) :
    [bytes.getD 0 0, bytes.getD 1 0].take n = bytes.take n := by
  match bytes, hlen with
  | [], hlen => simp [Nat.le_zero.1 hlen]
  | [b], hlen => interval_cases n <;> simp_all
  | b :: c :: more, _ => interval_cases n <;> simp_all

/-- Settles O1, by the bytes of an instruction making it again. -/
theorem decodeInvertsEncode : Obligations.DecodeInvertsEncode := by
  intro i rest hwf
  obtain ⟨op, hop⟩ : ∃ op, i.opcode = some op := Option.isSome_iff_exists.1 (wf_eq_isSome_opcode i ▸ hwf)
  have hcount : operandCount op = i.bytes.length := by rw [operandCount_of_opcode hop, Instr.length_bytes]
  rw [encode_of_opcode hop, List.cons_append, decode_cons_eq_ok_iff, hcount]
  exact ⟨by simp, ofBytes_of_opcode hop rest, List.drop_left⟩

/-- Settles O2, by the opcode and the operand bytes of what the matrix reads. -/
theorem encodeInvertsDecode : Obligations.EncodeInvertsDecode := by
  rintro (_ | ⟨op, more⟩) rest i h
  · cases h
  obtain ⟨hlen, rfl, rfl⟩ := decode_cons_eq_ok_iff.1 h
  have hop := opcode_ofBytes op (more.getD 0 0) (more.getD 1 0)
  refine ⟨by rw [wf_eq_isSome_opcode, hop, Option.isSome_some], ?_⟩
  rw [encode_of_opcode hop, bytes_ofBytes, take_getD_pair more (operandCount_le_two op) hlen, List.cons_append,
    List.take_append_drop]

/-- Settles O3: the number of operand bytes is `operandCount` of the opcode. -/
theorem opcodeFixesLength : Obligations.OpcodeFixesLength := by
  intro op more more' rest rest' i i' h h'
  obtain ⟨hlen, rfl, rfl⟩ := decode_cons_eq_ok_iff.1 h
  obtain ⟨-, rfl, -⟩ := decode_cons_eq_ok_iff.1 h'
  simp only [operandBytes_ofBytes]
  exact ⟨trivial, operandCount_le_two op, trivial, hlen⟩

/-- Settles O4, word by word. -/
theorem specWordsDecode : Obligations.SpecWordsDecode :=
  ⟨rfl, rfl, rfl, rfl, rfl, rfl, rfl, rfl, rfl, rfl, rfl⟩

/-- Settles O5: an illegal byte is the encoding of its own instruction, which charges one cycle. -/
theorem illegalOpcodesAreOneByteNoOps : Obligations.IllegalOpcodesAreOneByteNoOps := by
  intro op rest h
  have hop : (Instr.illegal op).opcode = some op := if_pos h
  have hdecode := decodeInvertsEncode (.illegal op) rest h
  rw [encode_of_opcode hop] at hdecode
  exact ⟨hdecode, fun s => rfl⟩

end Sys2Proof
end

section
/-! PROOFS. Effective addresses and the indirect jump's pointer as numbers (spec 30_encoding.md R96-R104; 20_memory.md R61,
R69). -/

namespace Sys2Proof.Machine

/-- Both bytes of a zero-page pointer come from page 0, the second from the next address modulo 256 (R61). -/
theorem zpPointer_toNat (s : State) (z : Byte) : (zpPointer s z).toNat =
    (Memory.read s.mem z.toNat).toNat + 256 * (Memory.read s.mem ((z.toNat + 1) % 256)).toNat := by
  rw [zpPointer, word16_toNat, peek_zext16, peek_zext16, BitVec.toNat_add]
  rfl

/-- An index is added to an address with carry, modulo 65536 (R69). -/
theorem add_zext16_toNat (base : Addr) (v : Byte) : (base + zext16 v).toNat = (base.toNat + v.toNat) % 65536 := by
  rw [BitVec.toNat_add, zext16_toNat]

/-- Settles O17, mode by mode. -/
theorem effectiveAddressesAsNumbers : Obligations.EffectiveAddressesAsNumbers := by
  intro s z base
  refine ⟨zext16_toNat z, ?zpx, ?zpy, rfl, add_zext16_toNat base s.x, add_zext16_toNat base s.y, ?indx, ?indy⟩
  case zpx => rw [ea, zext16_toNat, BitVec.toNat_add]
  case zpy => rw [ea, zext16_toNat, BitVec.toNat_add]
  case indx => rw [ea, zpPointer_toNat, BitVec.toNat_add, Nat.mod_add_mod]
  case indy => rw [ea, add_zext16_toNat, zpPointer_toNat]

theorem loByte_add_one (w : Addr) : loByte (w + 1) = loByte w + 1 := by
  apply BitVec.eq_of_toNat_eq
  rw [loByte_toNat, BitVec.toNat_add, BitVec.toNat_add, loByte_toNat]
  simp only [BitVec.reduceToNat]
  omega

/-- The target's high byte is read in the pointer's own page (R102). -/
theorem hiByte_indirectHiAddr (ptr : Addr) : hiByte (indirectHiAddr ptr) = hiByte ptr := by
  ext k hk
  interval_cases k <;> simp [hiByte, indirectHiAddr]

theorem loByte_indirectHiAddr (ptr : Addr) : loByte (indirectHiAddr ptr) = loByte ptr + 1 := by
  rw [← loByte_add_one]
  ext k hk
  interval_cases k <;> simp [loByte, indirectHiAddr]

/-- Settles O18, by the two bytes of the address the high byte is read at. -/
theorem indirectJumpWrapsInPage : Obligations.IndirectJumpWrapsInPage := by
  intro ptr
  have hnum : (indirectHiAddr ptr).toNat = (ptr.toNat % 256 + 1) % 256 + 256 * (ptr.toNat / 256) := by
    rw [← word16_hiByte_loByte (indirectHiAddr ptr), word16_toNat, hiByte_indirectHiAddr, loByte_indirectHiAddr,
      hiByte_toNat, BitVec.toNat_add, loByte_toNat]
    rfl
  have hlast : loByte ptr = 0xFF ↔ ptr.toNat % 256 = 255 := by
    rw [← BitVec.toNat_inj, loByte_toNat]
    rfl
  rw [Ne, hlast]
  refine ⟨hiByte_indirectHiAddr ptr, loByte_indirectHiAddr ptr, fun h => ?next, fun h => ?wrap⟩
  case next => bv_omega
  case wrap => bv_omega

end Sys2Proof.Machine
end

section
/-! PROOFS. Fetching (spec 30_encoding.md R91, R112): where no device is read, the bytes fetched are those at PC and only PC
moves; and the step that runs what was fetched. -/

namespace Sys2Proof.Machine

open Sys2Proof.Claims

section
variable {s u : State} (hbeyond : u.beyond = s.beyond)
include hbeyond

/-- A fetch from an address that is no device's answers the byte there, whatever time it is, and moves PC alone (R91;
20_memory.md R60). -/
theorem fetch_of_not_device (h : isDevice u.pc = false) : fetch u = (peek s u.pc, u.setPc (u.pc + 1)) := by
  rw [← peek_of_beyond h hbeyond, fetch, memRead_state_of_not_device u.pc u h]
  rfl

/-- Fetches from addresses that are no devices' answer the bytes there in order and move PC past them. -/
theorem fetchBytes_of_not_device {n : Nat} (h : ∀ k < n, isDevice (u.pc + BitVec.ofNat 16 k) = false) :
    fetchBytes n u =
      ((List.range n).map fun k => peek s (u.pc + BitVec.ofNat 16 k), u.setPc (u.pc + BitVec.ofNat 16 n)) := by
  induction n generalizing u with
  | zero => simp [fetchBytes, State.setPc]
  | succ n ih =>
    have hnext (k : Nat) : u.pc + 1 + BitVec.ofNat 16 k = u.pc + BitVec.ofNat 16 (k + 1) := by bv_omega
    have hfirst := fetch_of_not_device hbeyond (by simpa using h 0 n.succ_pos)
    have hrest := ih (u := u.setPc (u.pc + 1)) hbeyond fun k hk => by
      rw [setPc_pc, hnext]
      exact h (k + 1) (Nat.succ_lt_succ hk)
    simp only [setPc_pc, hnext] at hrest
    rw [fetchBytes, hfirst, hrest, List.range_succ_eq_map, List.map_cons, List.map_map, BitVec.add_zero]
    rfl

/-- Where the bytes at PC decode and those of the instruction are no device's, the instruction is fetched and PC moves past
it; the bytes after it are not read (R90, R112). -/
theorem fetchInstr_of_decode {i : Instr} {rest : List Byte}
    (hdecode : decode [peek s u.pc, peek s (u.pc + 1), peek s (u.pc + 2)] = .ok (i, rest))
    (hdevice : ∀ k ≤ i.operandBytes, isDevice (u.pc + BitVec.ofNat 16 k) = false) :
    fetchInstr u = (i, u.setPc (u.pc + BitVec.ofNat 16 (i.operandBytes + 1))) := by
  obtain ⟨-, rfl, -⟩ := decode_cons_eq_ok_iff.1 hdecode
  rw [operandBytes_ofBytes] at hdevice ⊢
  have hop := fetch_of_not_device hbeyond (by simpa using hdevice 0 (Nat.zero_le _))
  have hbytes := fetchBytes_of_not_device hbeyond fun k hk => hdevice k (Nat.le_of_lt_succ hk)
  rw [fetchBytes, hop, List.range_succ_eq_map, List.map_cons, List.map_map] at hbytes
  obtain ⟨hrest, hstate⟩ := Prod.mk.inj hbytes
  have htake : (fetchBytes (operandCount (peek s u.pc)) (u.setPc (u.pc + 1))).1 =
      [peek s (u.pc + 1), peek s (u.pc + 2)].take (operandCount (peek s u.pc)) := by
    rw [(List.cons.inj hrest).2]
    have hle := operandCount_le_two (peek s u.pc)
    interval_cases operandCount (peek s u.pc) <;> rfl
  rw [fetchInstr, hop]
  dsimp only
  rw [htake, hstate, ofBytes_take]
  rfl

end

/-- A machine with a cartridge and no event at the boundary runs an instruction (60_exceptions.md R245). -/
theorem step_of_undisturbed {s : State} (hcart : s.cart.isSome = true) (h : Undisturbed s) :
    step s = settleResult (executeInstruction s.settle) := by
  obtain ⟨hreset, hnmi, hirq⟩ := h
  have hmasked : (s.irqLine && !s.flags.i) = false := by
    rcases hirq with h | h <;> simp [h]
  simp [step_of_cart s hcart, boundary, hreset, hnmi, hmasked]

/-- Settles O6: the passing of the stall changes no byte that is no device's, so what is fetched is what was decoded. -/
theorem stepRunsDecodedInstruction : Obligations.StepRunsDecodedInstruction := by
  intro s hcart hs
  have hstep := step_of_undisturbed hcart hs
  refine ⟨hstep, fun i rest hdecode hdevice => ?_⟩
  have hfetch : fetchInstr s.settle = (i, s.settle.setPc (s.pc + BitVec.ofNat 16 (i.operandBytes + 1))) :=
    fetchInstr_of_decode (s := s) (u := s.settle) rfl hdecode hdevice
  rw [hstep, executeInstruction, hfetch]
  rfl

end Sys2Proof.Machine
end

section
/-! PROOFS. Loads, stores and register transfers (spec 40_load_store_transfer.md R130-R141). -/

namespace Sys2Proof.Machine

open Sys2Proof.Claims

/-- Settles O19: the three loads are one operation (`load_eq`) on three registers; the opcodes are entries of the matrix. -/
theorem loadsTakeOperandAndSetZN : Obligations.LoadsTakeOperandAndSetZN := by
  simp only [Obligations.LoadsTakeOperandAndSetZN, ← setZN_eq_znOf]
  refine ⟨fun o s => ?lda, fun o s => ?ldx, fun o s => ?ldy, fun b1 b2 => ?alu, fun b1 b2 => ?opcodes⟩
  case lda => exact congrArg Host.Outcome.next (load_eq State.setA o s)
  case ldx => exact congrArg Host.Outcome.next (load_eq State.setX o s)
  case ldy => exact congrArg Host.Outcome.next (load_eq State.setY o s)
  case alu => exact ⟨rfl, rfl, rfl, rfl, rfl, rfl, rfl, rfl⟩
  case opcodes => exact ⟨rfl, rfl, rfl, rfl, rfl, rfl, rfl, rfl, rfl, rfl⟩

/-- Where a store reaches internal RAM, the byte is read back there and only the form's cost is charged (20_memory.md
R52; 70_reset_and_hazards.md R321). -/
theorem store_ram (v : Byte) (m : Mem) (s : State) (hm : (ea s m).toNat < 0x2000) (hs : s.legal = true) :
    peek (store v m s) (ea s m) = v ∧ (store v m s).skip = s.skip + storeCost m := by
  have hram := region_of_lt_2000 (ea s m) hm
  have hdevice : isDevice (ea s m) = false := by simp [isDevice, hram]
  constructor
  · calc peek (store v m s) (ea s m) = peek (memWrite (ea s m) v s) (ea s m) := peek_of_beyond hdevice rfl
      _ = v := peek_memWrite_ram (ea s m) (ea s m) v s _ hram hram (State.legal_mem hs)
  · rw [store_eq, charge_skip, memWrite_ram (ea s m) v s _ hram]

/-- Settles O20: each store is one write of its register, which leaves registers, flags and inputs alone. -/
theorem storesWriteRegisterAtEffectiveAddress : Obligations.StoresWriteRegisterAtEffectiveAddress := by
  refine ⟨fun m s i v hi => ⟨store v m s, ?exec, ?effect⟩, fun b1 b2 => ?opcodes⟩
  case exec => rcases hi with ⟨rfl, rfl⟩ | ⟨rfl, rfl⟩ | ⟨rfl, rfl⟩ <;> rfl
  case effect => simpa using store_ram v m s
  case opcodes => exact ⟨rfl, rfl, rfl, rfl, rfl, rfl, rfl, rfl, rfl, rfl, rfl, rfl, rfl⟩

/-- Settles O21: five are a `transfer`, which sets Z and N from the byte copied; TXS updates SP alone. -/
theorem transfersCopyRegister : Obligations.TransfersCopyRegister := by
  simp only [Obligations.TransfersCopyRegister, ← setZN_eq_znOf]
  refine ⟨fun s => ?effect, ?opcodes⟩
  case effect => exact ⟨rfl, rfl, rfl, rfl, rfl, rfl⟩
  case opcodes => exact ⟨fun _ _ => rfl, fun _ _ => rfl, fun _ _ => rfl, fun _ _ => rfl, fun _ _ => rfl, fun _ _ => rfl⟩

end Sys2Proof.Machine
end

section
/-! PROOFS. Pushes and pulls (spec 41_stack.md R150-R153; 20_memory.md R62-R64). -/

namespace Sys2Proof.Machine

open Sys2Proof.Claims

/-- Charging cycles changes no byte that is no device's. -/
theorem peek_charge (n : Nat) (s : State) {a : Addr} (hdevice : isDevice a = false) :
    peek (s.charge n) a = peek s a := peek_of_beyond hdevice rfl

/-- A pushed byte lies at the old `0x0100 | SP` (20_memory.md R63). -/
theorem peek_push_same (v : Byte) (s : State) (hs : s.legal = true) : peek (push v s) (stackAddr s.sp) = v :=
  calc peek (push v s) (stackAddr s.sp) = peek (memWrite (stackAddr s.sp) v s) (stackAddr s.sp) :=
        peek_of_beyond (isDevice_stackAddr s.sp) rfl
    _ = v := peek_memWrite_ram _ _ v s _ (region_stackAddr s.sp) (region_stackAddr s.sp) (State.legal_mem hs)

/-- A push leaves every byte alone that is no device's and lies in another cell (20_memory.md R52, R63). -/
theorem peek_push_other (v : Byte) (s : State) {a : Addr} (hdevice : isDevice a = false)
    (hcell : region a ≠ region (stackAddr s.sp)) : peek (push v s) a = peek s a := by
  have hplace : ¬ SamePlace (stackAddr s.sp) a := by
    rintro (hregion | ⟨hprogram, -⟩)
    · exact hcell hregion.symm
    · have := stackAddr_toNat s.sp
      have := s.sp.isLt
      omega
  calc peek (push v s) a = peek (memWrite (stackAddr s.sp) v s) a := peek_of_beyond hdevice rfl
    _ = peek s a := peek_memWrite_other _ a v s hdevice hplace

/-- Settles O22: PHA and PHP are one push, charged 3 cycles, of A or of the packed flags. -/
theorem pushesStoreThenDecrement : Obligations.PushesStoreThenDecrement := by
  refine ⟨fun _ _ => rfl, fun _ _ => rfl, fun s i v hs hi => ⟨(push v s).charge 3, ?exec, ?state, ?pushed, ?others⟩⟩
  case exec => rcases hi with ⟨rfl, rfl⟩ | ⟨rfl, rfl⟩ <;> rfl
  case state => rw [push_eq]; rfl
  case pushed => exact (peek_charge 3 _ (isDevice_stackAddr s.sp)).trans (peek_push_same v s hs)
  case others =>
    intro a hdevice hcell
    exact (peek_charge 3 _ hdevice).trans (peek_push_other v s hdevice hcell)

/-- Settles O23: both take the byte `pullByte` answers and raise SP by one (`pulled`); PLA sets Z and N from it, PLP
unpacks it. -/
theorem pullsIncrementThenRead : Obligations.PullsIncrementThenRead := by
  simp only [Obligations.PullsIncrementThenRead, ← setZN_eq_znOf]
  refine ⟨fun _ _ => rfl, fun _ _ => rfl, fun s => ⟨?pla, ?plp⟩⟩
  case pla => rfl
  case plp => rfl

end Sys2Proof.Machine
end

section
/-! PROOFS. Arithmetic, compares, counting and read-modify-write on memory (spec 42_arithmetic.md R159-R170;
43_logic_shift.md R184-R187; 20_memory.md R68). -/

namespace Sys2Proof.Machine

open Sys2Proof.Claims

/-! ## The adder of ADC and SBC -/

/-- The sum's low byte (R160's `result & 0xFF`). -/
theorem addWithCarry_value (a b : Byte) (c : Bool) :
    (addWithCarry a b c).value = BitVec.ofNat 8 ((a.toNat + b.toNat + c.toNat) % 256) := by
  apply BitVec.eq_of_toNat_eq
  simp only [addWithCarry, BitVec.toNat_ofNat]
  omega

/-- The mask 0x80 leaves bit 7 alone. -/
theorem and_80_ne_zero (v : Byte) : v &&& 0x80 ≠ 0 ↔ v.msb = true := by
  have hmask : v &&& 0x80 = if v.getLsbD 7 then BitVec.twoPow 8 7 else 0#8 := BitVec.and_twoPow v 7
  rw [hmask, BitVec.msb_eq_getLsbD_last]
  cases v.getLsbD 7 <;> decide

/-- The adder overflows where A and the operand have one sign and the result the other, which is where the signed sum
does not fit a byte (R159). -/
theorem addWithCarry_overflow_iff (a b : Byte) (c : Bool) :
    (addWithCarry a b c).overflow = true ↔
      (a.toInt + b.toInt + c.toNat < -128 ∨ 127 < a.toInt + b.toInt + c.toNat) := by
  have hsigns : (addWithCarry a b c).overflow = true ↔
      a.msb ≠ (addWithCarry a b c).value.msb ∧ b.msb ≠ (addWithCarry a b c).value.msb := by
    simp only [addWithCarry, bne_iff_ne, and_80_ne_zero, BitVec.msb_and, BitVec.msb_xor, Bool.and_eq_true]
  have ha := a.isLt
  have hb := b.isLt
  have hc := c.toNat_le
  rw [hsigns]
  simp only [addWithCarry, BitVec.msb_eq_decide, BitVec.toNat_ofNat, BitVec.toInt_eq_toNat_cond, ne_eq,
    decide_eq_decide]
  omega

/-- SBC's complement of the operand, R161's `m ^ 0xFF`. -/
theorem xor_ff_eq_not (m : Byte) : m ^^^ 0xFF = ~~~m := BitVec.xor_allOnes

/-- Adding the complement and the carry takes the operand and the borrow away (R161). -/
theorem addWithCarry_not_value (a m : Byte) (c : Bool) :
    (addWithCarry a (~~~m) c).value = a - m - (if c then 0 else 1) := by
  cases c
  case false =>
    simp only [addWithCarry, Bool.toNat_false, Bool.false_eq_true, if_false]
    bv_omega
  case true =>
    simp only [addWithCarry, Bool.toNat_true, if_true]
    bv_omega

/-- The sum of the complement carries exactly where nothing is borrowed (R161). -/
theorem addWithCarry_not_carry (a m : Byte) (c : Bool) :
    (addWithCarry a (~~~m) c).carry = decide (m.toNat + (if c then 0 else 1) ≤ a.toNat) := by
  have hm := m.isLt
  simp only [addWithCarry, BitVec.toNat_not, decide_eq_decide]
  cases c
  case false =>
    simp only [Bool.toNat_false, Bool.false_eq_true, if_false]
    omega
  case true =>
    simp only [Bool.toNat_true, if_true]
    omega

/-- The complement is one less than the negation, as signed numbers. -/
theorem toInt_not_eq (m : Byte) : (~~~m).toInt = -m.toInt - 1 := by
  have hm := m.isLt
  simp only [BitVec.toInt_eq_toNat_cond, BitVec.toNat_not]
  omega

theorem ofSum_eq (f : Flags) (r : Sum) : f.ofSum r =
    { c := r.carry, z := decide (r.value = 0), i := f.i, d := f.d, v := r.overflow, n := r.value.msb } :=
  setZN_eq_znOf _ _

/-- The formula for V in the statements' words (R32). -/
theorem addWithCarry_overflow_eq (a b : Byte) (c : Bool) : (addWithCarry a b c).overflow =
    decide ((a ^^^ (addWithCarry a b c).value) &&& (b ^^^ (addWithCarry a b c).value) &&& 0x80 ≠ 0) := by
  rw [Bool.eq_iff_iff, decide_eq_true_iff]
  exact bne_iff_ne

/-- ADC and SBC add what they make of the operand to A: one operation, whose flags are the adder's (R160, R161). -/
theorem addOperand_eq (b : Byte) (o : Src) (s : State) :
    (addToA b (readSrc s o).2).charge (readCost s o) = { s with
      a := (addWithCarry s.a b s.flags.c).value
      flags := s.flags.ofSum (addWithCarry s.a b s.flags.c)
      io := ioAfterSrc s o, ppu := ppuAfterSrc s o
      skip := s.skip + readCost s o } := by
  rw [readSrc_state]
  rfl

theorem exec_adc (o : Src) (s : State) : exec (.adc o) s = .next { s with
    a := (addWithCarry s.a (operandByte s o) s.flags.c).value
    flags := s.flags.ofSum (addWithCarry s.a (operandByte s o) s.flags.c)
    io := ioAfterSrc s o, ppu := ppuAfterSrc s o
    skip := s.skip + readCost s o } := by
  rw [← addOperand_eq, exec, execAdc, readSrc_eq]

theorem exec_sbc (o : Src) (s : State) : exec (.sbc o) s = .next { s with
    a := (addWithCarry s.a (~~~operandByte s o) s.flags.c).value
    flags := s.flags.ofSum (addWithCarry s.a (~~~operandByte s o) s.flags.c)
    io := ioAfterSrc s o, ppu := ppuAfterSrc s o
    skip := s.skip + readCost s o } := by
  rw [← addOperand_eq, ← xor_ff_eq_not, exec, execSbc, readSrc_eq]

/-- Settles O24, by what the adder gives for A, the operand and C. -/
theorem adcAddsWithCarry : Obligations.AdcAddsWithCarry := by
  refine ⟨fun b1 b2 => ?opcodes, fun o s => ?effect⟩
  case opcodes => exact ⟨rfl, rfl, rfl, rfl, rfl, rfl, rfl, rfl⟩
  case effect =>
    rw [exec_adc, ofSum_eq, addWithCarry_overflow_eq, addWithCarry_value]
    rfl

/-- Settles O25: adding the complement is subtracting, and a carry is no borrow. -/
theorem sbcSubtractsWithBorrow : Obligations.SbcSubtractsWithBorrow := by
  refine ⟨fun b1 b2 => ?opcodes, fun o s => ?effect⟩
  case opcodes => exact ⟨rfl, rfl, rfl, rfl, rfl, rfl, rfl, rfl⟩
  case effect =>
    rw [exec_sbc, ofSum_eq, addWithCarry_overflow_eq, addWithCarry_not_carry, addWithCarry_not_value]

/-- Settles O26: the signed difference is the signed sum of A, the complement and C. -/
theorem overflowIsSignedOverflow : Obligations.OverflowIsSignedOverflow := by
  refine fun o s => ⟨⟨_, exec_adc o s, ?adc⟩, ⟨_, exec_sbc o s, ?sbc⟩⟩
  case adc => exact addWithCarry_overflow_iff s.a (operandByte s o) s.flags.c
  case sbc =>
    have hdiff : s.a.toInt - (operandByte s o).toInt - (1 - (s.flags.c.toNat : Int)) =
        s.a.toInt + (~~~operandByte s o).toInt + s.flags.c.toNat := by
      rw [toInt_not_eq]
      ring
    rw [hdiff]
    exact addWithCarry_overflow_iff s.a (~~~operandByte s o) s.flags.c

/-! ## Compares -/

/-- A difference is 0 where the operands are equal (R162). -/
theorem ofCompare_eq (f : Flags) (r m : Byte) : f.ofCompare r m =
    { f with c := decide (m.toNat ≤ r.toNat), z := decide (r = m), n := (r - m).msb } := by
  simp only [Flags.ofCompare, setZN_eq_znOf, znOf, sub_eq_zero]

/-- Settles O28: the three compares are one operation (`compareReg_eq`) of three registers. -/
theorem comparesSetCarryZeroNegative : Obligations.ComparesSetCarryZeroNegative := by
  refine ⟨fun o s i r hi => ?effect, fun b1 b2 => ?alu, fun b1 b2 => ?opcodes⟩
  case effect =>
    rw [← ofCompare_eq]
    rcases hi with ⟨rfl, rfl⟩ | ⟨rfl, rfl⟩ | ⟨rfl, rfl⟩ <;> exact congrArg Host.Outcome.next (compareReg_eq _ o s)
  case alu => exact ⟨rfl, rfl, rfl, rfl, rfl, rfl, rfl, rfl⟩
  case opcodes => exact ⟨rfl, rfl, rfl, rfl, rfl, rfl⟩

/-! ## Counting in a register -/

theorem ofNat_add_one (v : Byte) : BitVec.ofNat 8 ((v.toNat + 1) % 256) = v + 1 := by bv_omega

theorem ofNat_sub_one (v : Byte) : BitVec.ofNat 8 ((v.toNat + 255) % 256) = v - 1 := by bv_omega

/-- Settles O29: each is a `transfer` of the register's successor or predecessor into it. -/
theorem registerIncrementsWrap : Obligations.RegisterIncrementsWrap := by
  simp only [Obligations.RegisterIncrementsWrap, ofNat_add_one, ofNat_sub_one, ← setZN_eq_znOf]
  refine ⟨fun s => ?effect, ?opcodes⟩
  case effect => exact ⟨rfl, rfl, rfl, rfl⟩
  case opcodes => exact ⟨fun _ _ => rfl, fun _ _ => rfl, fun _ _ => rfl, fun _ _ => rfl⟩

/-! ## Read-modify-write on memory -/

/-- What every read-modify-write instruction comes to once its result and flags are known (20_memory.md R68; D3). -/
def readThenWrite (m : Mem) (r : Byte) (f : Flags) (s : State) : State :=
  ((memWrite (ea s m) r (afterRead s (ea s m))).setFlags f).charge (rmwCost m)

theorem modifyMem_eq_readThenWrite (g : Byte → Byte) (m : Mem) (s : State) :
    modifyMem g m s = readThenWrite m (g (peek s (ea s m))) (znOf s.flags (g (peek s (ea s m)))) s := by
  rw [modifyMem_eq, memRead_eq, State.setZN, memWrite_flags, setZN_eq_znOf]
  rfl

theorem shift_mem_eq_readThenWrite (g : Byte → Bool → Byte) (out : Byte → Bool) (m : Mem) (s : State) :
    shift g out (.mem m) s = readThenWrite m (g (peek s (ea s m)) s.flags.c)
      { znOf s.flags (g (peek s (ea s m)) s.flags.c) with c := out (peek s (ea s m)) } s := by
  rw [shift_mem_eq, memRead_eq, Flags.ofShift, setZN_eq_znOf]
  rfl

/-- The carry rotated in on the right, R186's `| C`. -/
theorem rolValue_eq (v : Byte) (c : Bool) : rolValue v c = (v <<< 1) ||| (if c then 0x01 else 0x00) := rfl

/-- The carry rotated in on the left, R187's `| (C << 7)`. -/
theorem rorValue_eq (v : Byte) (c : Bool) : rorValue v c = (v >>> 1) ||| (if c then 0x80 else 0x00) := by
  cases c <;> rfl

/-- Where the address is internal RAM, the result is read back there and only the form's cost is charged (20_memory.md
R52; 70_reset_and_hazards.md R321). -/
theorem readThenWrite_ram (m : Mem) (r : Byte) (f : Flags) (s : State) (hm : (ea s m).toNat < 0x2000)
    (hs : s.legal = true) :
    peek (readThenWrite m r f s) (ea s m) = r ∧ (readThenWrite m r f s).skip = s.skip + rmwCost m := by
  have hram := region_of_lt_2000 (ea s m) hm
  have hdevice : isDevice (ea s m) = false := by simp [isDevice, hram]
  constructor
  · calc peek (readThenWrite m r f s) (ea s m) = peek (memWrite (ea s m) r (afterRead s (ea s m))) (ea s m) :=
          peek_of_beyond hdevice rfl
      _ = r := peek_memWrite_ram _ _ r _ _ hram hram (State.legal_mem hs : Memory.wf s.mem = true)
  · rw [readThenWrite, memWrite_ram (ea s m) r _ _ hram]
    rfl

/-- Settles O30: INC and DEC are a `modifyMem`, the shifts a `shift`, and both one read and one write of the result. -/
theorem readModifyWriteCompletes : Obligations.ReadModifyWriteCompletes := by
  refine ⟨fun m s i r c hi => ⟨readThenWrite m r { znOf s.flags r with c := c } s, ?exec, ?effect⟩, ?inc, ?dec, ?asl,
    ?rol, ?lsr, ?ror⟩
  case exec =>
    rcases hi with ⟨rfl, rfl, rfl⟩ | ⟨rfl, rfl, rfl⟩ | ⟨rfl, rfl, rfl⟩ | ⟨rfl, rfl, rfl⟩ | ⟨rfl, rfl, rfl⟩ |
      ⟨rfl, rfl, rfl⟩
    · exact congrArg Host.Outcome.next (modifyMem_eq_readThenWrite (· + 1) m s)
    · exact congrArg Host.Outcome.next (modifyMem_eq_readThenWrite (· - 1) m s)
    · exact congrArg Host.Outcome.next (shift_mem_eq_readThenWrite aslValue outLeft m s)
    · exact congrArg Host.Outcome.next (shift_mem_eq_readThenWrite lsrValue outRight m s)
    · rw [← rolValue_eq]
      exact congrArg Host.Outcome.next (shift_mem_eq_readThenWrite rolValue outLeft m s)
    · rw [← rorValue_eq]
      exact congrArg Host.Outcome.next (shift_mem_eq_readThenWrite rorValue outRight m s)
  case effect =>
    have hram := readThenWrite_ram m r { znOf s.flags r with c := c } s
    simpa [readThenWrite, afterRead] using hram
  case inc | dec | asl | rol | lsr | ror => exact fun b1 b2 => ⟨rfl, rfl, rfl, rfl⟩

end Sys2Proof.Machine
end

section
/-! PROOFS. Logic and shifts of the accumulator (spec 43_logic_shift.md R180-R187). -/

namespace Sys2Proof.Machine

open Sys2Proof.Claims

/-- Settles O31: the three are one operation (`logic_eq`) of A and the operand. -/
theorem logicWritesAAndZN : Obligations.LogicWritesAAndZN := by
  refine ⟨fun o s i r hi => ?effect, ?and, ?ora, ?eor⟩
  case effect =>
    rw [← setZN_eq_znOf]
    rcases hi with ⟨rfl, rfl⟩ | ⟨rfl, rfl⟩ | ⟨rfl, rfl⟩ <;> exact congrArg Host.Outcome.next (logic_eq _ o s)
  case and | ora | eor => exact fun b1 b2 => ⟨rfl, rfl, rfl, rfl, rfl, rfl, rfl, rfl⟩

/-- Settles O32: BIT reads its operand once (`memRead_eq`) and then sets flags alone. -/
theorem bitTestsMemoryAgainstA : Obligations.BitTestsMemoryAgainstA := by
  refine ⟨fun m s => ?effect, fun b1 b2 => ⟨rfl, rfl⟩⟩
  rw [exec, execBit, memRead_eq]
  rfl

/-! ## The shifts' results and the bits shifted out, as numbers -/

theorem aslValue_eq_ofNat (v : Byte) (c : Bool) : aslValue v c = BitVec.ofNat 8 (2 * v.toNat) := by
  rw [aslValue]
  bv_omega

theorem lsrValue_eq_ofNat (v : Byte) (c : Bool) : lsrValue v c = BitVec.ofNat 8 (v.toNat / 2) := by
  rw [lsrValue]
  bv_omega

theorem bitByte_toNat (b : Bool) : (bitByte b).toNat = b.toNat := by
  cases b <;> rfl

/-- A shift to the left leaves bit 0 free, so the carry rotated into it is added. -/
theorem rolValue_eq_ofNat (v : Byte) (c : Bool) : rolValue v c = BitVec.ofNat 8 (2 * v.toNat + c.toNat) := by
  have hfree : v <<< 1 &&& bitByte c = 0#8 := by
    ext k hk
    cases k with
    | zero => simp
    | succ k => simp
  have hcarry := bitByte_toNat c
  rw [rolValue, ← BitVec.add_eq_or_of_and_eq_zero _ _ hfree]
  bv_omega

/-- A shift to the right leaves bit 7 free, so the carry rotated into it is added as 128. -/
theorem rorValue_eq_ofNat (v : Byte) (c : Bool) :
    rorValue v c = BitVec.ofNat 8 (v.toNat / 2 + 128 * c.toNat) := by
  have hfree : v >>> 1 &&& bitByte c <<< 7 = 0#8 := by
    ext k hk
    obtain hlow | rfl : k < 7 ∨ k = 7 := by omega
    · simp [hlow]
    · simp
  have hcarry := bitByte_toNat c
  rw [rorValue, ← BitVec.add_eq_or_of_and_eq_zero _ _ hfree]
  bv_omega

/-- Bit 7 is set in the upper half of the byte's values. -/
theorem outLeft_eq_decide (v : Byte) : outLeft v = decide (128 ≤ v.toNat) :=
  v.msb_eq_getLsbD_last.symm.trans v.msb_eq_decide

/-- Bit 0 is set in odd values. -/
theorem outRight_eq_decide (v : Byte) : outRight v = decide (v.toNat % 2 = 1) :=
  Nat.testBit_zero v.toNat

/-- A shift of the accumulator is its result in A, with Z and N from it and C the bit shifted out. -/
theorem shift_acc_eq_update (f : Byte → Bool → Byte) (out : Byte → Bool) (s : State) :
    shift f out .acc s = { s with
      a := f s.a s.flags.c
      flags := { znOf s.flags (f s.a s.flags.c) with c := out s.a }
      skip := s.skip + 2 } := by
  rw [shift_acc_eq, Flags.ofShift, setZN_eq_znOf]
  rfl

/-- Settles O33: each is a `shift` of A, whose result and bit shifted out are the statement's numbers. -/
theorem accumulatorShiftsMoveOneBit : Obligations.AccumulatorShiftsMoveOneBit := by
  refine ⟨fun s i r c hi => ?effect, ?asl, ?lsr, ?rol, ?ror⟩
  case effect =>
    rcases hi with ⟨rfl, rfl, rfl⟩ | ⟨rfl, rfl, rfl⟩ | ⟨rfl, rfl, rfl⟩ | ⟨rfl, rfl, rfl⟩
    · rw [exec, execAsl, shift_acc_eq_update, aslValue_eq_ofNat, outLeft_eq_decide]
    · rw [exec, execLsr, shift_acc_eq_update, lsrValue_eq_ofNat, outRight_eq_decide]
    · rw [exec, execRol, shift_acc_eq_update, rolValue_eq_ofNat, outLeft_eq_decide]
    · rw [exec, execRor, shift_acc_eq_update, rorValue_eq_ofNat, outRight_eq_decide]
  case asl | lsr | rol | ror => exact fun b1 b2 => rfl

end Sys2Proof.Machine
end

section
/-! PROOFS. Jumps, subroutine call and return, branches (spec 44_control_flow.md R200-R211; 30_encoding.md R99, R102,
R105). -/

namespace Sys2Proof.Machine

open Sys2Proof.Claims

/-! ## JMP -/

/-- A read of an address that is no device's leaves no trace (20_memory.md R60). -/
theorem afterRead_of_not_device {a : Addr} (s : State) (h : isDevice a = false) : afterRead s a = s := by
  have hread := memRead_state_of_not_device a s h
  rwa [memRead_eq] at hread

/-- The indirect jump reads its pointer twice, low byte first, and what devices see of it is its only other effect
(30_encoding.md R99, R102). -/
theorem exec_jmp_ind (ptr : Addr) (s : State) : exec (.jmp (.ind ptr)) s =
    .next { afterRead (afterRead s ptr) (indirectHiAddr ptr) with
      pc := word16 (peek (afterRead s ptr) (indirectHiAddr ptr)) (peek s ptr), skip := s.skip + 5 } := by
  rw [exec, execJmp, jumpTarget, memRead_eq, memRead_eq]
  rfl

/-- Settles O34: the indirect form is `exec_jmp_ind`, whose reads leave the state alone where no device answers them. -/
theorem jmpGoesToTarget : Obligations.JmpGoesToTarget := by
  refine ⟨fun target s => rfl, fun ptr s hlo hhi => ?memory, fun ptr s => ⟨_, exec_jmp_ind ptr s, rfl, ?lo, ?hi⟩,
    fun b1 b2 => ⟨rfl, rfl⟩⟩
  case memory => rw [exec_jmp_ind, afterRead_of_not_device s hlo, afterRead_of_not_device s hhi]
  case lo => exact loByte_word16 _ _
  case hi => exact hiByte_word16 _ _

/-! ## JSR and RTS -/

/-- A jump changes no byte that is no device's. -/
theorem peek_setPc (w : Addr) (s : State) {a : Addr} (hdevice : isDevice a = false) :
    peek (s.setPc w) a = peek s a := peek_of_beyond hdevice rfl

/-- The two slots a pushed word takes are different cells, at every SP (20_memory.md R62). -/
theorem region_stackAddr_ne_pred (sp : Byte) : region (stackAddr sp) ≠ region (stackAddr (sp - 1)) := by
  rw [region_stackAddr, region_stackAddr]
  intro h
  injection h
  bv_omega

/-- A word pushed writes memory and lowers SP by 2, modulo 256 (20_memory.md R63). -/
theorem push16_eq_update (w : Addr) (s : State) :
    push16 w s = { s with mem := (push16 w s).mem, sp := s.sp - 2 } := by
  have hsp : s.sp - 1 - 1 = s.sp - 2 := by bv_omega
  rw [push16_eq, push_eq, push_eq, hsp]

/-- A word is pushed high byte first (20_memory.md R63). -/
theorem peek_push16 (w : Addr) (s : State) (hs : s.legal = true) :
    peek (push16 w s) (stackAddr s.sp) = hiByte w ∧ peek (push16 w s) (stackAddr (s.sp - 1)) = loByte w := by
  rw [push16_eq, ← push_sp (hiByte w) s]
  constructor
  · have hcell : region (stackAddr s.sp) ≠ region (stackAddr (push (hiByte w) s).sp) := by
      rw [push_sp]
      exact region_stackAddr_ne_pred s.sp
    rw [peek_push_other _ _ (isDevice_stackAddr s.sp) hcell, peek_push_same _ s hs]
  · exact peek_push_same _ _ (push_legal _ hs)

/-- Settles O35: JSR pushes the word PC - 1, and the jump leaves the stack alone. -/
theorem jsrPushesReturnMinusOne : Obligations.JsrPushesReturnMinusOne := by
  refine ⟨fun target s hs => ⟨((push16 (s.pc - 1) s).setPc target).charge 6, rfl, ?state, ?stack⟩, fun _ _ => rfl⟩
  case state =>
    rw [push16_eq_update]
    rfl
  case stack =>
    simpa only [peek_charge, peek_setPc, isDevice_stackAddr] using peek_push16 (s.pc - 1) s hs

/-- Two pulls raise SP by 2, modulo 256 (20_memory.md R64). -/
theorem pulled_pulled (s : State) : pulled (pulled s) = s.setSp (s.sp + 2) := by
  have hsp : s.sp + 1 + 1 = s.sp + 2 := by bv_omega
  rw [← hsp]
  rfl

/-- A pulled word has its low byte one slot above SP and its high byte two above, modulo 256 (20_memory.md R64). -/
theorem pullWord_eq (s : State) :
    pullWord s = word16 (peek s (stackAddr (s.sp + 2))) (peek s (stackAddr (s.sp + 1))) := by
  have hsp : (pulled s).sp + 1 = s.sp + 2 := congrArg State.sp (pulled_pulled s)
  have hhi : pullByte (pulled s) = peek s (stackAddr (s.sp + 2)) := by
    rw [pullByte, hsp]
    exact peek_of_beyond (isDevice_stackAddr _) rfl
  rw [pullWord, hhi, pullByte]

/-- Settles O36: RTS is two pulls and a jump one past the word they answer. -/
theorem rtsReturnsOnePastPulled : Obligations.RtsReturnsOnePastPulled := by
  refine ⟨fun _ _ => rfl, fun s => ?effect⟩
  rw [exec, execRts, pulled_pulled, pullWord_eq]
  rfl

/-- Settles O37: after JSR (O35) the two slots RTS pulls from (O36) hold PC - 1. -/
theorem rtsUndoesJsr : Obligations.RtsUndoesJsr := by
  intro target s hs
  obtain ⟨t, hjsr, ht, hhi, hlo⟩ := jsrPushesReturnMinusOne.1 target s hs
  have htsp : t.sp = s.sp - 2 := congrArg State.sp ht
  have htop : t.sp + 2 = s.sp := by bv_omega
  have hnext : t.sp + 1 = s.sp - 1 := by bv_omega
  refine ⟨t, _, hjsr, rtsReturnsOnePastPulled.2 t, ?pc, htop⟩
  calc word16 (peek t (stackAddr (t.sp + 2))) (peek t (stackAddr (t.sp + 1))) + 1
      = word16 (hiByte (s.pc - 1)) (loByte (s.pc - 1)) + 1 := by rw [htop, hnext, hhi, hlo]
    _ = s.pc := by rw [word16_hiByte_loByte, BitVec.sub_add_cancel]

/-! ## Branches -/

/-- The displacement is added as a signed number, modulo 65536 (30_encoding.md R105). -/
theorem branchTarget_eq_ofInt (next : Addr) (d : Byte) :
    branchTarget next d = BitVec.ofInt 16 (next.toNat + d.toInt) := by
  rw [BitVec.ofInt_add, BitVec.ofInt_natCast, BitVec.ofNat_toNat, BitVec.setWidth_eq]
  rfl

/-- The three costs of a branch: not taken, taken to the next instruction's page, taken to another (R203). -/
theorem branchCost_eq (taken : Bool) (next target : Addr) :
    branchCost taken next target = if taken then (if hiByte target = hiByte next then 3 else 4) else 2 := by
  cases taken with
  | false => rfl
  | true => by_cases h : hiByte target = hiByte next <;> simp [branchCost, extra, page, h]

/-- A branch sets PC and charges its cost (R203). -/
theorem branch_eq_update (cond : Bool) (d : Byte) (s : State) : branch cond d s = { s with
    pc := if cond then BitVec.ofInt 16 (s.pc.toNat + d.toInt) else s.pc
    skip := s.skip + (if cond then
      (if hiByte (BitVec.ofInt 16 (s.pc.toNat + d.toInt)) = hiByte s.pc then 3 else 4) else 2) } := by
  rw [branch_eq, branchTarget_eq_ofInt, branchCost_eq]
  rfl

/-- Settles O38: the eight are one operation (`branch_eq_update`) on eight conditions. -/
theorem branchesTestOneFlag : Obligations.BranchesTestOneFlag := by
  refine ⟨fun d s i cond hi => ?effect, ?bcc, ?bcs, ?beq, ?bne, ?bmi, ?bpl, ?bvc, ?bvs⟩
  case effect =>
    have hexec : exec i s = .next (branch cond d s) := by
      rcases hi with ⟨rfl, rfl⟩ | ⟨rfl, rfl⟩ | ⟨rfl, rfl⟩ | ⟨rfl, rfl⟩ | ⟨rfl, rfl⟩ | ⟨rfl, rfl⟩ | ⟨rfl, rfl⟩ |
        ⟨rfl, rfl⟩ <;> rfl
    rw [hexec, branch_eq_update]
  case bcc | bcs | beq | bne | bmi | bpl | bvc | bvs => exact fun b1 b2 => rfl

end Sys2Proof.Machine
end

section
/-! PROOFS. Flag instructions, NOP, BRK and RTI (spec 45_flags_system.md R220-R229; 60_exceptions.md R250). -/

namespace Sys2Proof.Machine

open Sys2Proof.Claims

/-! ## BRK and RTI -/

/-- Settles O12: BRK skips the byte after its opcode and is then the entry, which charges its own cost. -/
theorem brkEntersThroughIrqVector : Obligations.BrkEntersThroughIrqVector :=
  ⟨fun _ _ => rfl, fun _ => rfl⟩

/-- Three pulls raise SP by 3, modulo 256 (20_memory.md R64). -/
theorem pulled_pulled_pulled (s : State) : pulled (pulled (pulled s)) = s.setSp (s.sp + 3) := by
  have hsp : s.sp + 2 + 1 = s.sp + 3 := by bv_omega
  calc pulled (pulled (pulled s)) = pulled (s.setSp (s.sp + 2)) := congrArg pulled (pulled_pulled s)
    _ = s.setSp (s.sp + 2 + 1) := rfl
    _ = s.setSp (s.sp + 3) := by rw [hsp]

/-- The word RTI pulls after the flags byte lies two and three slots above SP; the flags set in between leave it alone
(20_memory.md R64; 60_exceptions.md R250). -/
theorem pullWord_pulled_setFlags (f : Flags) (s : State) :
    pullWord (pulled (s.setFlags f)) =
      word16 (peek s (stackAddr (s.sp + 3))) (peek s (stackAddr (s.sp + 2))) := by
  have hsp : (pulled (s.setFlags f)).sp = s.sp + 1 := rfl
  have hhi : s.sp + 1 + 2 = s.sp + 3 := by bv_omega
  have hlo : s.sp + 1 + 1 = s.sp + 2 := by bv_omega
  have hpeek (sp : Byte) : peek (pulled (s.setFlags f)) (stackAddr sp) = peek s (stackAddr sp) :=
    peek_of_beyond (isDevice_stackAddr sp) rfl
  rw [pullWord_eq, hpeek, hpeek, hsp, hhi, hlo]

/-- Settles O13: RTI is three pulls (`interruptReturn_eq`): the flags byte, then the word it jumps to. -/
theorem rtiPullsFlagsThenPc : Obligations.RtiPullsFlagsThenPc := by
  refine ⟨fun _ _ => rfl, fun s => ?effect⟩
  rw [exec, execRti, interruptReturn_eq, pulled_pulled_pulled, pullWord_pulled_setFlags]
  rfl

/-! ## Flag instructions and NOP -/

/-- Settles O39: each arm sets one flag (NOP none) and charges 2 cycles; the opcodes are entries of the matrix. -/
theorem flagInstructionsWriteOneFlag : Obligations.FlagInstructionsWriteOneFlag := by
  refine ⟨fun s => ?effect, ?clc, ?sec, ?cli, ?sei, ?clv, ?cld, ?sed, ?nop⟩
  case effect => exact ⟨rfl, rfl, rfl, rfl, rfl, rfl, rfl, rfl⟩
  case clc | sec | cli | sei | clv | cld | sed | nop => exact fun _ _ => rfl

end Sys2Proof.Machine
end


section
/-! PROOFS. The boundary check (spec 60_exceptions.md R241, R244-R246, R267): which event it takes, that it always answers,
and that no operation of the core reads the level of the IRQ input. -/

namespace Sys2Proof.Machine

open Sys2Proof.Claims

/-! ## Events and answers -/

/-- Settles O7: the three tests of `boundary`, each reached when those before it fail. -/
theorem boundaryPriority : Obligations.BoundaryPriority := by
  intro s hcart
  rw [step_of_cart s hcart]
  refine ⟨fun hreset => ?reset, fun hreset hnmi => ?nmi, fun hreset hnmi hirq hi => ?irq⟩
  case reset => simp only [boundary, settle_resetReq, hreset, if_true, settleResult]
  case nmi =>
    simp only [boundary, settle_resetReq, settle_nmiPending, hreset, hnmi, Bool.false_eq_true, if_false, if_true,
      settleResult, nmiVector]
  case irq =>
    simp only [boundary, settle_resetReq, settle_nmiPending, settle_irqLine, settle_flags, hreset, hnmi, hirq, hi,
      Bool.false_eq_true, if_false, if_true, Bool.not_false, Bool.and_self, settleResult, irqVector]

/-- Whatever the boundary takes, it answers a next state (60_exceptions.md R241). -/
theorem boundary_answers (s : State) : ∃ t : State, boundary s = .next t := by
  unfold boundary
  split
  · exact ⟨_, rfl⟩
  split
  · exact ⟨_, rfl⟩
  split
  · exact ⟨_, rfl⟩
  · exact exec_answers _ _

/-- Settles O9: neither an instruction nor the boundary refuses, and a step does so only for want of a cartridge. -/
theorem stepAnswersExactlyWithCartridge : Obligations.StepAnswersExactlyWithCartridge := by
  refine ⟨exec_answers, fun s => ⟨fun hcart => ?answers, fun hcart => ?refuses⟩⟩
  case answers =>
    obtain ⟨t, ht⟩ := boundary_answers s.settle
    exact ⟨t.settle, by rw [step_of_cart s hcart, ht]; rfl⟩
  case refuses => simp only [step, hcart]

/-! ## The IRQ level: the bus -/

/-- The state with another level of the IRQ input. -/
def withIrq (level : Bool) (s : State) : State := { s with irqLine := level }

@[simp] theorem peek_withIrq (level : Bool) (s : State) (a : Addr) : peek (withIrq level s) a = peek s a := by
  unfold peek memRead
  split <;> rfl

@[simp] theorem memRead_withIrq (level : Bool) (a : Addr) (s : State) :
    memRead a (withIrq level s) = ((memRead a s).1, withIrq level (memRead a s).2) := by
  rw [memRead_eq, peek_withIrq, memRead_eq]
  rfl

theorem readBlock_withIrq (level : Bool) (n : Nat) (a : Addr) (s : State) :
    readBlock n a (withIrq level s) = ((readBlock n a s).1, withIrq level (readBlock n a s).2) := by
  induction n generalizing a s with
  | zero => rfl
  | succ n ih => simp only [readBlock, memRead_withIrq, ih]

theorem emit_withIrq (level : Bool) (e : IoEvent) (s : State) :
    (withIrq level s).emit e = withIrq level (s.emit e) := rfl

theorem charge_withIrq (level : Bool) (n : Nat) (s : State) :
    (withIrq level s).charge n = withIrq level (s.charge n) := rfl

theorem spriteDma_withIrq (level : Bool) (v : Byte) (s : State) :
    spriteDma v (withIrq level s) = withIrq level (spriteDma v s) := by
  have hcycles : (withIrq level s).cycles = s.cycles := rfl
  simp only [spriteDma, readBlock_withIrq, emit_withIrq, charge_withIrq, hcycles]

@[simp] theorem memWrite_withIrq (level : Bool) (a : Addr) (v : Byte) (s : State) :
    memWrite a v (withIrq level s) = withIrq level (memWrite a v s) := by
  unfold memWrite
  split
  case h_4 => rw [emit_withIrq, spriteDma_withIrq]
  case h_6 => rw [apply_ite (withIrq level)]; rfl
  all_goals rfl

@[simp] theorem push_withIrq (level : Bool) (v : Byte) (s : State) :
    push v (withIrq level s) = withIrq level (push v s) := by
  simp only [push_eq]
  rfl

theorem interruptEntry_withIrq (level : Bool) (vector : Addr) (b : Bool) (s : State) :
    interruptEntry vector b (withIrq level s) = withIrq level (interruptEntry vector b s) := by
  simp only [interruptEntry_eq, push16_eq, peek16, push_withIrq, peek_withIrq]
  rfl

theorem pullByte_withIrq (level : Bool) (s : State) : pullByte (withIrq level s) = pullByte s := peek_withIrq level s _

/-! ## The IRQ level: operands, instructions, fetches -/

@[simp] theorem ea_withIrq (level : Bool) (s : State) (m : Mem) : ea (withIrq level s) m = ea s m := by
  cases m with
  | indx z | indy z => simp only [ea, zpPointer, peek_withIrq]; rfl
  | _ => rfl

@[simp] theorem readCost_withIrq (level : Bool) (s : State) (o : Src) : readCost (withIrq level s) o = readCost s o := by
  have hcrossed (m : Mem) : crossed (withIrq level s) m = crossed s m := by
    cases m <;> simp [crossed, indexBase, zpPointer]
  rcases o with v | m
  · rfl
  · cases m <;> simp [readCost, hcrossed]

@[simp] theorem readSrc_withIrq (level : Bool) (s : State) (o : Src) :
    readSrc (withIrq level s) o = ((readSrc s o).1, withIrq level (readSrc s o).2) := by
  cases o with
  | imm v => rfl
  | mem m => simp only [readSrc, ea_withIrq, memRead_withIrq]

/-- No instruction reads the level of the IRQ input, and none writes it (60_exceptions.md R244). -/
theorem exec_withIrq (level : Bool) {i : Instr} {s t : State} (h : exec i s = .next t) :
    exec i (withIrq level s) = .next (withIrq level t) := by
  cases i with
  | lda o | ldx o | ldy o =>
    cases h
    simp only [exec, execLda, execLdx, execLdy, load, readSrc_withIrq, readCost_withIrq]
    rfl
  | adc o | sbc o =>
    cases h
    simp only [exec, execAdc, execSbc, readSrc_withIrq, readCost_withIrq]
    rfl
  | cmp o | cpx o | cpy o =>
    cases h
    simp only [exec, execCmp, execCpx, execCpy, compareReg, readSrc_withIrq, readCost_withIrq]
    rfl
  | and o | ora o | eor o =>
    cases h
    simp only [exec, execAnd, execOra, execEor, logic, readSrc_withIrq, readCost_withIrq]
    rfl
  | bit m =>
    cases h
    simp only [exec, execBit, ea_withIrq, memRead_withIrq, readCost_withIrq]
    rfl
  | sta m | stx m | sty m =>
    cases h
    simp only [exec, execSta, execStx, execSty, store, ea_withIrq, memWrite_withIrq]
    rfl
  | inc m | dec m =>
    cases h
    simp only [exec, execInc, execDec, modifyMem, ea_withIrq, memRead_withIrq, memWrite_withIrq]
    rfl
  | asl o | lsr o | rol o | ror o =>
    cases h
    cases o with
    | acc => rfl
    | mem m =>
      simp only [exec, execAsl, execLsr, execRol, execRor, shift, ea_withIrq, memRead_withIrq, memWrite_withIrq]
      rfl
  | jmp target =>
    cases h
    cases target with
    | abs w => rfl
    | ind ptr =>
      simp only [exec, execJmp, jumpTarget, memRead_withIrq]
      rfl
  | pha | php =>
    cases h
    simp only [exec, execPha, execPhp, push_withIrq]
    rfl
  | jsr target =>
    cases h
    simp only [exec, execJsr, push16, push_withIrq]
    rfl
  | brk => cases h; exact congrArg Host.Outcome.next (interruptEntry_withIrq level irqVector true (s.setPc (s.pc + 1)))
  | pla | plp =>
    cases h
    simp only [exec, execPla, execPlp, pullByte_withIrq]
    rfl
  | rts =>
    rw [rtsReturnsOnePastPulled.2] at h ⊢
    cases h
    simp only [peek_withIrq]
    rfl
  | rti =>
    rw [rtiPullsFlagsThenPc.2] at h ⊢
    cases h
    simp only [peek_withIrq]
    rfl
  | _ => cases h; rfl

theorem fetch_withIrq (level : Bool) (s : State) :
    fetch (withIrq level s) = ((fetch s).1, withIrq level (fetch s).2) :=
  congrArg (fun r : Byte × State => (r.1, r.2.setPc (r.2.pc + 1))) (memRead_withIrq level s.pc s)

theorem fetchBytes_withIrq (level : Bool) (n : Nat) (s : State) :
    fetchBytes n (withIrq level s) = ((fetchBytes n s).1, withIrq level (fetchBytes n s).2) := by
  induction n generalizing s with
  | zero => rfl
  | succ n ih => simp only [fetchBytes, fetch_withIrq, ih]

/-- What is fetched is the same whatever the level is (30_encoding.md R91, R112). -/
theorem fetchInstr_withIrq (level : Bool) (s : State) :
    fetchInstr (withIrq level s) = ((fetchInstr s).1, withIrq level (fetchInstr s).2) := by
  simp only [fetchInstr, fetch_withIrq, fetchBytes_withIrq]

/-- Settles O8: with the line masked, both steps run the instruction they fetch, which is the same one. -/
theorem maskedIrqIsIgnored : Obligations.MaskedIrqIsIgnored := by
  intro s hcart hreset hnmi hi
  have hstep (level : Bool) : step (withIrq level s) = settleResult (executeInstruction (withIrq level s.settle)) :=
    step_of_undisturbed (s := withIrq level s) hcart ⟨hreset, hnmi, .inr hi⟩
  obtain ⟨t, ht⟩ := exec_answers (fetchInstr s.settle).1 (fetchInstr s.settle).2
  have hanswer (level : Bool) : step (withIrq level s) = .next (withIrq level t).settle := by
    rw [hstep, executeInstruction, fetchInstr_withIrq, exec_withIrq level ht]
    rfl
  exact ⟨(withIrq false t).settle, hanswer false, hanswer true⟩

end Sys2Proof.Machine
end


section
/-! PROOFS. Interrupt entry and its return (spec 60_exceptions.md R247, R249; 20_memory.md R62-R65). -/

namespace Sys2Proof.Machine

open Sys2Proof.Claims

/-! ## The stack an entry leaves -/

/-- Two slots of the stack page are one cell only where SP is the same (20_memory.md R62). -/
theorem region_stackAddr_injective : Function.Injective fun sp => region (stackAddr sp) := by
  intro p q h
  simp only [region_stackAddr, Region.ram.injEq, Nat.add_left_cancel_iff] at h
  exact BitVec.eq_of_toNat_eq h

/-- An entry changes memory, SP, I, PC and the stall, and nothing else (R247). -/
theorem interruptEntry_eq_update (vector : Addr) (b : Bool) (s : State) :
    interruptEntry vector b s = { s with
      mem := (interruptEntry vector b s).mem
      sp := s.sp - 3
      flags := { s.flags with i := true }
      pc := peek16 (push (s.flags.pack b) (push16 s.pc s)) vector
      skip := s.skip + 7 } := by
  have hsp : s.sp - 2 - 1 = s.sp - 3 := by bv_omega
  rw [interruptEntry_eq, push_eq, push16_eq_update, hsp]
  rfl

/-- Once the three bytes are pushed, an entry changes no byte that is no device's. -/
theorem peek_interruptEntry (vector : Addr) (b : Bool) (s : State) {a : Addr} (hdevice : isDevice a = false) :
    peek (interruptEntry vector b s) a = peek (push (s.flags.pack b) (push16 s.pc s)) a := by
  rw [interruptEntry_eq]
  exact peek_of_beyond hdevice rfl

theorem push16_sp (w : Addr) (s : State) : (push16 w s).sp = s.sp - 2 :=
  congrArg State.sp (push16_eq_update w s)

/-- The three slots hold PC high, PC low and the flags with the marker, at every SP (R247; 20_memory.md R63). -/
theorem peek_interruptEntry_stack (vector : Addr) (b : Bool) (s : State) (hs : s.legal = true) :
    peek (interruptEntry vector b s) (stackAddr s.sp) = hiByte s.pc ∧
      peek (interruptEntry vector b s) (stackAddr (s.sp - 1)) = loByte s.pc ∧
      peek (interruptEntry vector b s) (stackAddr (s.sp - 2)) = s.flags.pack b := by
  simp only [peek_interruptEntry, isDevice_stackAddr]
  obtain ⟨hhi, hlo⟩ := peek_push16 s.pc s hs
  have hother {sp : Byte} (hne : sp ≠ s.sp - 2) :
      peek (push (s.flags.pack b) (push16 s.pc s)) (stackAddr sp) = peek (push16 s.pc s) (stackAddr sp) := by
    refine peek_push_other _ _ (isDevice_stackAddr sp) ?_
    rw [push16_sp]
    exact region_stackAddr_injective.ne hne
  refine ⟨(hother ?_).trans hhi, (hother ?_).trans hlo, ?flags⟩
  · bv_omega
  · bv_omega
  case flags =>
    rw [← push16_sp s.pc s]
    exact peek_push_same _ _ (push_legal _ (push_legal _ hs))

/-- The pushes of an entry leave every byte alone that is no device's and lies in none of the three slots (R247). -/
theorem peek_entryPushes_other (b : Bool) (s : State) {a : Addr} (hdevice : isDevice a = false)
    (h0 : region a ≠ region (stackAddr s.sp)) (h1 : region a ≠ region (stackAddr (s.sp - 1)))
    (h2 : region a ≠ region (stackAddr (s.sp - 2))) :
    peek (push (s.flags.pack b) (push16 s.pc s)) a = peek s a := by
  rw [peek_push_other _ _ hdevice (by rwa [push16_sp]), push16_eq, peek_push_other _ _ hdevice (by rwa [push_sp]),
    peek_push_other _ _ hdevice h0]

/-! ## The vector -/

/-- A byte outside the stack page and its mirrors is no stack slot. -/
theorem region_ne_stackAddr {a : Addr} (h : a.toNat < 0x100 ∨ 0x2000 ≤ a.toNat) (sp : Byte) :
    region a ≠ region (stackAddr sp) := by
  rw [region_stackAddr, Ne, ram_region_iff]
  omega

/-- Internal RAM and all from the expansion window on are no device's (Table R51). -/
theorem isDevice_eq_false {a : Addr} (h : a.toNat < 0x2000 ∨ 0x4018 ≤ a.toNat) : isDevice a = false := by
  unfold isDevice
  split
  case h_1 r hr =>
    have := device_range a r hr
    omega
  case h_2 => rfl

/-- The word at a vector in the program window is the one before the pushes. The vector 0xFFFF has its high byte at 0x0000,
which is no stack slot either. -/
theorem peek16_entryPushes (vector : Addr) (b : Bool) (s : State) (hvector : 0x8000 ≤ vector.toNat) :
    peek16 (push (s.flags.pack b) (push16 s.pc s)) vector = peek16 s vector := by
  have hbyte {a : Addr} (ha : a.toNat < 0x100 ∨ 0x8000 ≤ a.toNat) :
      peek (push (s.flags.pack b) (push16 s.pc s)) a = peek s a := by
    have hslot := region_ne_stackAddr (a := a) (by omega)
    exact peek_entryPushes_other b s (isDevice_eq_false (by omega)) (hslot _) (hslot _) (hslot _)
  rw [peek16, hbyte (a := vector) (by omega), hbyte (a := vector + 1) (by bv_omega), peek16]

/-- Settles O11: the three slots are `peek_interruptEntry_stack`, the frame `peek_entryPushes_other`, and the pushes leave
the vector alone. -/
theorem interruptEntrySavesPcAndFlags : Obligations.InterruptEntrySavesPcAndFlags := by
  intro vector b s hs hvector
  obtain ⟨hhi, hlo, hflags⟩ := peek_interruptEntry_stack vector b s hs
  refine ⟨hhi, hlo, hflags, ?state, fun a hdevice h0 h1 h2 => ?others⟩
  case state =>
    have hstate := interruptEntry_eq_update vector b s
    rwa [peek16_entryPushes vector b s hvector] at hstate
  case others => rw [peek_interruptEntry vector b s hdevice, peek_entryPushes_other b s hdevice h0 h1 h2]

/-- Settles O14: after an entry the three slots RTI pulls from (O13) hold the flags and PC. -/
theorem rtiUndoesInterruptEntry : Obligations.RtiUndoesInterruptEntry := by
  intro vector b s hs
  obtain ⟨hhi, hlo, hflags⟩ := peek_interruptEntry_stack vector b s hs
  have ht := interruptEntry_eq_update vector b s
  generalize interruptEntry vector b s = t at hhi hlo hflags ht
  have ha : t.a = s.a := by rw [ht]
  have hx : t.x = s.x := by rw [ht]
  have hy : t.y = s.y := by rw [ht]
  have hsp : t.sp = s.sp - 3 := congrArg State.sp ht
  have h1 : t.sp + 1 = s.sp - 2 := by bv_omega
  have h2 : t.sp + 2 = s.sp - 1 := by bv_omega
  have h3 : t.sp + 3 = s.sp := by bv_omega
  refine ⟨_, rtiPullsFlagsThenPc.2 t, ?pc, h3, ?flags, ha, hx, hy⟩
  case pc =>
    dsimp only
    rw [h3, h2, hhi, hlo, word16_hiByte_loByte]
  case flags =>
    dsimp only
    rw [h1, hflags, unpack_pack]

end Sys2Proof.Machine
end


section
/-! PROOFS. Sprite DMA (spec 60_exceptions.md R265; 70_reset_and_hazards.md R324): the reads of a page one by one, and the
copy as one update of the state. -/

namespace Sys2Proof.Machine

open Sys2Proof.Claims

/-! ## The reads of a block -/

/-- The state after the first `n` reads at increasing addresses from `a` on. -/
def afterReads (a : Addr) (s : State) : Nat → State
  | 0 => s
  | n + 1 => afterRead (afterReads a s n) (a + BitVec.ofNat 16 n)

theorem afterReads_skip (a : Addr) (s : State) (n : Nat) : (afterReads a s n).skip = s.skip := by
  induction n with
  | zero => rfl
  | succ n ih => exact ih

/-- Reads from the second address on, in the state the first read leaves. -/
theorem afterReads_succ (a : Addr) (s : State) (n : Nat) :
    afterReads (a + 1) (afterRead s a) n = afterReads a s (n + 1) := by
  induction n with
  | zero => simp [afterReads]
  | succ n ih =>
    have hnext : a + 1 + BitVec.ofNat 16 n = a + BitVec.ofNat 16 (n + 1) := by bv_omega
    rw [afterReads, ih, hnext]
    rfl

/-- A block of reads answers the byte each read finds in the state the reads before it leave (20_memory.md R60). -/
theorem readBlock_eq (n : Nat) (a : Addr) (s : State) :
    readBlock n a s =
      ((List.range n).map fun k => peek (afterReads a s k) (a + BitVec.ofNat 16 k), afterReads a s n) := by
  induction n generalizing a s with
  | zero => rfl
  | succ n ih =>
    have hnext (k : Nat) : a + 1 + BitVec.ofNat 16 k = a + BitVec.ofNat 16 (k + 1) := by bv_omega
    have hfirst : a + BitVec.ofNat 16 0 = a := by simp
    simp only [readBlock, memRead_eq, ih, afterReads_succ, hnext, List.range_succ_eq_map, List.map_cons, List.map_map,
      afterReads, hfirst]
    rfl

/-- Byte `k` of a page. -/
theorem page_add (v : Byte) {k : Nat} (hk : k < 256) :
    word16 v 0 + BitVec.ofNat 16 k = word16 v (BitVec.ofNat 8 k) := by
  have hv := v.isLt
  apply BitVec.eq_of_toNat_eq
  simp only [BitVec.toNat_add, word16_toNat, BitVec.toNat_ofNat, BitVec.reduceToNat]
  omega

/-- The bytes a DMA of page `v` reads, each in the state the reads before it leave (R265). -/
def pageBytes (v : Byte) (s : State) : List Byte :=
  (List.range 256).map fun k => peek (afterReads (word16 v 0) s k) (word16 v (BitVec.ofNat 8 k))

theorem readBlock_page (v : Byte) (s : State) :
    readBlock 256 (word16 v 0) s = (pageBytes v s, afterReads (word16 v 0) s 256) := by
  rw [readBlock_eq, pageBytes]
  refine congrArg (·, _) (List.map_congr_left fun k hk => ?_)
  rw [page_add v (List.mem_range.1 hk)]

/-! ## The copy -/

/-- 256 bytes landing in sprite memory fill it (R265). -/
theorem landsInOam_landInOam (start : Byte) (bytes : Nat → Byte) (oam : Vector Byte 256) :
    LandsInOam start bytes (landInOam start ((List.range 256).map bytes) oam) := by
  intro k hk
  rw [landInOam_get start _ oam k hk (by simpa using hk)]
  simp

/-- The stall of a DMA by the parity of the count (R324, D17). -/
theorem dmaStall_eq (cycles : Nat) : dmaStall cycles = if cycles % 2 = 1 then 514 else 513 := by
  unfold dmaStall
  split <;> omega

/-- A DMA is the reads of the page, the event with their bytes, and the stall; the PPU puts the bytes into sprite memory
(R265). -/
theorem spriteDma_eq (v : Byte) (s : State) : spriteDma v s =
    { afterReads (word16 v 0) s 256 with
      io := .dma v (pageBytes v s) :: (afterReads (word16 v 0) s 256).io
      ppu := { (afterReads (word16 v 0) s 256).ppu with
        oam := landInOam (Config.oamAddress (afterReads (word16 v 0) s 256).io) (pageBytes v s)
          (afterReads (word16 v 0) s 256).ppu.oam }
      skip := s.skip + (if s.cycles % 2 = 1 then 514 else 513) } := by
  simp only [spriteDma, readBlock_page, dmaStall_eq, State.emit, Ppu.sees, State.charge, afterReads_skip]

/-- A write of the trigger tells the devices of it, which the PPU takes no part of, and makes the copy (R265). -/
theorem memWrite_dmaTrigger (v : Byte) (s : State) :
    memWrite 0x4014 v s = spriteDma v { s with io := .write 0x4014 v :: s.io } :=
  congrArg (spriteDma v) (emit_write_of_ge 0x4014 v s (by decide))

/-- The pages without device registers: RAM, the expansion window, extended RAM and the program window (Table R51). -/
theorem isDevice_page {v : Byte} (h : v.toNat < 0x20 ∨ 0x40 < v.toNat) (lo : Byte) : isDevice (word16 v lo) = false := by
  have hbyte := word16_toNat v lo
  have hlo := lo.isLt
  exact isDevice_eq_false (by omega)

/-- On a page without device registers no read leaves a trace. -/
theorem afterReads_page {v : Byte} (hpage : v.toNat < 0x20 ∨ 0x40 < v.toNat) (s : State) {n : Nat} (hn : n ≤ 256) :
    afterReads (word16 v 0) s n = s := by
  induction n with
  | zero => rfl
  | succ n ih => rw [afterReads, ih (by omega), page_add v hn, afterRead_of_not_device s (isDevice_page hpage _)]

/-- The bytes of such a page are those it shows, whatever the devices have seen. -/
theorem pageBytes_page {v : Byte} (hpage : v.toNat < 0x20 ∨ 0x40 < v.toNat) (s : State) (seen : List IoEvent) :
    pageBytes v { s with io := seen } = (List.range 256).map fun k => peek s (word16 v (BitVec.ofNat 8 k)) := by
  refine List.map_congr_left fun k hk => ?_
  rw [afterReads_page hpage _ (List.mem_range.1 hk).le]
  exact peek_congr s _ _ (isDevice_page hpage _) rfl rfl

/-- Settles O48, by `spriteDma_eq`, whose states on a page without device registers are all the first one. -/
theorem spriteDmaCopiesPageAndStalls : Obligations.SpriteDmaCopiesPageAndStalls := by
  intro v s
  have hcopy := spriteDma_eq v { s with io := .write 0x4014 v :: s.io }
  rw [← memWrite_dmaTrigger] at hcopy
  refine ⟨⟨afterReads (word16 v 0) _, _, rfl, fun k hk => ?read, landsInOam_landInOam _ _ _, hcopy⟩, fun hpage => ?memory⟩
  case read => rw [← page_add v hk, afterReads]
  case memory =>
    rw [afterReads_page hpage _ le_rfl, pageBytes_page hpage s] at hcopy
    exact ⟨_, landsInOam_landInOam _ _ _, hcopy⟩

end Sys2Proof.Machine
end


section
/-! PROOFS. The PPU's phases, counters, flags and NMI (spec 60_exceptions.md R242, R262). -/

namespace Sys2Proof.Machine

/-! ## The counters -/

/-- Pre-render, render and post-render leave a scanline of the 262 for vertical blank, whatever the free division is. -/
theorem preRenderLines_add_lt : preRenderLines + 240 + postRenderLines < 262 := by
  have hpre := Config.preRenderExtra.isLt
  have hpost := Nat.mod_lt Config.postRenderExtra (show 0 < 20 - Config.preRenderExtra.val by omega)
  unfold preRenderLines postRenderLines
  omega

/-- The counters move to the next dot of the scanline, or to the first dot of the next one (R262). -/
theorem Ppu.move_cases (p : Ppu) :
    (p.move.dot = p.dot + 1 ∧ p.move.scanline = p.scanline ∧ p.move.phase = p.phase) ∨
      (p.move.dot = 0 ∧ p.move.scanline = (p.scanline + 1) % 262) := by
  cases hdone : p.lineDone with
  | true => exact .inr (by simp [Ppu.move, Ppu.nextLine, hdone])
  | false => exact .inl (by simp [Ppu.move, hdone])

/-- Settles O58: the counters are the moved ones, which `Ppu.legal_cycle` keeps in range and in phase. -/
theorem ppuCyclesThroughFourPhases : Obligations.PpuCyclesThroughFourPhases := by
  refine ⟨⟨preRenderLines, postRenderLines, Nat.succ_pos _, Nat.succ_pos _, preRenderLines_add_lt, fun _ => rfl⟩,
    fun hit s hs => ?cycle⟩
  have hlegal := Ppu.legal_cycle hit (State.legal_ppu hs)
  simp only [Ppu.legal, Bool.and_eq_true, decide_eq_true_eq, beq_iff_eq] at hlegal
  obtain ⟨⟨-, hdot⟩, hphase⟩ := hlegal
  obtain ⟨hcontrol, hmask, hoam⟩ := Ppu.cycle_registers hit s.ppu
  have hmove := Ppu.move_cases s.ppu
  obtain ⟨hp, hl, hd⟩ := Ppu.cycle_counters hit s.ppu
  rw [← hp, ← hl, ← hd] at hmove
  exact ⟨hphase, hdot, hmove, hcontrol, hmask, hoam, rfl⟩

/-! ## The status flags and NMI -/

theorem entersPhase_iff (ph : Phase) (p q : Ppu) : entersPhase ph p q = true ↔ p.phase ≠ ph ∧ q.phase = ph := by
  simp [entersPhase]

theorem entersPhase_eq_false_iff (ph : Phase) (p q : Ppu) :
    entersPhase ph p q = false ↔ p.phase = ph ∨ q.phase ≠ ph := by
  rw [← Bool.not_eq_true, entersPhase_iff]
  tauto

section
variable (hit : Bool) (p : Ppu)

/-- The flags a PPU cycle starts from: free values where it enters pre-render, those before it otherwise (R262; log entry
31). -/
def Ppu.statusBefore : Bool × Bool :=
  if entersPhase .preRender p (p.cycle hit) then Config.statusAtPreRender (p.cycle hit).frame (p.verticalBlank, p.sprite0Hit)
  else (p.verticalBlank, p.sprite0Hit)

/-- The vertical-blank flag after a PPU cycle. -/
theorem Ppu.cycle_verticalBlank :
    (p.cycle hit).verticalBlank = ((p.statusBefore hit).1 || entersPhase .verticalBlank p (p.cycle hit)) := rfl

/-- The sprite 0 flag after a PPU cycle. -/
theorem Ppu.cycle_sprite0Hit :
    (p.cycle hit).sprite0Hit = ((p.statusBefore hit).2 || (hit && (p.cycle hit).phase == .render)) := rfl

end

/-- Settles O59, from what each flag is after a cycle and the phases before and after it. -/
theorem nmiRaisedOnceOnVerticalBlankEntry : Obligations.NmiRaisedOnceOnVerticalBlankEntry := by
  intro hit s
  dsimp only [State.ppuCycle]
  generalize hp : s.ppu = p
  refine ⟨fun hfrom hto => ?enters, fun hother => ?quiet, fun hhit hrender => ?collision, fun hfrom hto => ?preRender,
    fun hother => ⟨fun hquiet => ?verticalBlank, fun hnone => ?sprite0Hit⟩⟩
  case enters =>
    have henters := (entersPhase_iff .verticalBlank p (p.cycle hit)).2 ⟨hfrom, hto⟩
    have hmsb : p.nmiEnabled = p.control.getLsbD 7 := BitVec.msb_eq_getLsbD_last _
    exact ⟨by rw [Ppu.cycle_verticalBlank, henters, Bool.or_true], by rw [henters, hmsb, Bool.and_true]⟩
  case quiet =>
    rw [(entersPhase_eq_false_iff _ _ _).2 hother, Bool.and_false, Bool.or_false]
  case collision =>
    rw [Ppu.cycle_sprite0Hit, hrender, hhit]
    exact Bool.or_true _
  case preRender =>
    have henters := (entersPhase_iff .preRender p (p.cycle hit)).2 ⟨hfrom, hto⟩
    have hblank : entersPhase .verticalBlank p (p.cycle hit) = false :=
      (entersPhase_eq_false_iff _ _ _).2 (.inr (by simp [hto]))
    have hrender : ((p.cycle hit).phase == .render) = false := by rw [hto]; rfl
    simp [Ppu.cycle_verticalBlank, Ppu.cycle_sprite0Hit, Ppu.statusBefore, henters, hblank, hrender]
  case verticalBlank =>
    rw [Ppu.cycle_verticalBlank, Ppu.statusBefore, (entersPhase_eq_false_iff _ _ _).2 hother,
      (entersPhase_eq_false_iff _ _ _).2 hquiet]
    simp
  case sprite0Hit =>
    rw [Ppu.cycle_sprite0Hit, Ppu.statusBefore, (entersPhase_eq_false_iff _ _ _).2 hother]
    rcases hnone with rfl | hphase
    · simp
    · simp [hphase]

end Sys2Proof.Machine
end


section
/-! PROOFS. One `runCycle` and a frame of them (spec 60_exceptions.md R260, R261, R263; 70_reset_and_hazards.md R301, R320). -/

namespace Sys2Proof.Machine

open Sys2Proof.Claims

/-! ## A CPU cycle answers, and keeps the cartridge -/

theorem isSome_cart_of_imageOf {s t : State} (h : imageOf t = imageOf s) : t.cart.isSome = s.cart.isSome := by
  simpa [imageOf] using congrArg Option.isSome h

/-- With no stall left the boundary acts as a step does, so it leaves the images as they are (20_memory.md R75). -/
theorem boundary_imageOf {s t : State} (hcart : s.cart.isSome = true) (hskip : s.skip = 0) (h : boundary s = .next t) :
    imageOf t = imageOf s := by
  refine noStepChangesProgramImage s t.settle ?_
  rw [step_of_cart s hcart, settle_of_skip_zero s hskip, h]
  rfl

theorem takeReset_cart (s : State) : s.takeReset.cart = s.cart := by
  unfold State.takeReset
  split <;> rfl

/-- A CPU cycle of a machine with a cartridge answers a state with a cartridge: a stall passes, or the boundary acts
(R320). -/
theorem cpuCycle_answers {s : State} (hcart : s.cart.isSome = true) :
    ∃ t : State, cpuCycle s = .next t ∧ t.cart.isSome = true := by
  have htaken : s.takeReset.cart.isSome = true := by rwa [takeReset_cart]
  obtain ⟨c, hc⟩ := Option.isSome_iff_exists.1 hcart
  by_cases hskip : 0 < s.takeReset.skip
  · refine ⟨{ s.takeReset with skip := s.takeReset.skip - 1, cycles := s.takeReset.cycles + 1 }, ?_, htaken⟩
    simp only [cpuCycle, hc, hskip, if_true]
  · obtain ⟨t, ht⟩ := boundary_answers s.takeReset
    have himage := boundary_imageOf htaken (by omega) ht
    refine ⟨{ t with skip := t.skip - 1, cycles := t.cycles + 1 }, ?_, (isSome_cart_of_imageOf himage).trans htaken⟩
    simp only [cpuCycle, hc, hskip, if_false, ht]

/-! ## The APU cycle -/

theorem apuPhase_cart (inp : CycleInput) (s : State) : (apuPhase inp s).cart = s.cart := by
  unfold apuPhase
  cases inp.sample with
  | none => rfl
  | some a => exact memRead_cart a s

/-! ## `runCycle` and its iteration -/

/-- A `runCycle` of a console with a cartridge is a CPU cycle, after the reset the host has asked for and three PPU cycles,
and before the APU cycle (R260; log entry 33). -/
theorem runCycle_answers (inp : CycleInput) {c : Console} (hcart : c.cpu.cart.isSome = true) :
    ∃ t : State, cpuCycle (ppuPhase inp c.cpu.takeReset) = .next t ∧ t.cart.isSome = true ∧
      runCycle inp c = .next
        { cpu := apuPhase inp t, ppuCycles := c.ppuCycles + 3, apuCycles := c.apuCycles + 1 } := by
  have hppu : (ppuPhase inp c.cpu.takeReset).cart.isSome = true := (congrArg _ (takeReset_cart c.cpu)).trans hcart
  obtain ⟨t, ht, htcart⟩ := cpuCycle_answers hppu
  exact ⟨t, ht, htcart, by simp only [runCycle, ht]⟩

/-- A run of `runCycle`s steps the PPU three times and the APU once per input, whatever runs (R260). -/
theorem runCycles_answers (inputs : List CycleInput) {c : Console} (hcart : c.cpu.cart.isSome = true) :
    ∃ d : Console, runCycles inputs c = .next d ∧ d.ppuCycles = c.ppuCycles + 3 * inputs.length ∧
      d.apuCycles = c.apuCycles + inputs.length := by
  induction inputs generalizing c with
  | nil => exact ⟨c, rfl, rfl, rfl⟩
  | cons inp inputs ih =>
    obtain ⟨t, -, htcart, hrun⟩ := runCycle_answers inp hcart
    obtain ⟨d, hd, hppu, hapu⟩ := ih (c := ⟨apuPhase inp t, c.ppuCycles + 3, c.apuCycles + 1⟩)
      ((congrArg _ (apuPhase_cart inp t)).trans htcart)
    dsimp only at hppu hapu
    have hlength : (inp :: inputs).length = inputs.length + 1 := rfl
    refine ⟨d, ?_, by omega, by omega⟩
    rw [runCycles, hrun]
    exact hd

/-- Settles O55: a frame is as many `runCycle`s as it has inputs, and each is `runCycle_answers`. -/
theorem frameKeepsClockRatio : Obligations.FrameKeepsClockRatio := by
  refine ⟨fun inputs c hcart => ?frame, fun inp c hcart => ?cycle⟩
  case frame => simpa [runFrame] using runCycles_answers inputs.toList hcart
  case cycle =>
    obtain ⟨t, ht, -, hrun⟩ := runCycle_answers inp hcart
    refine ⟨t, ht, fun hnone => ?none, fun a hsome => ?some⟩
    case none =>
      rw [hrun, apuPhase, hnone]
      rfl
    case some =>
      rw [hrun, apuPhase, hsome]
      simp only [hostEvent, memRead_eq]

end Sys2Proof.Machine
end


section
/-! PROOFS. What a reset leaves (spec 70_reset_and_hazards.md R300, R302-R304), and what an operand form costs (R321, Table
R322; 30_encoding.md R106). -/

namespace Sys2Proof.Machine

/-! ## Reset -/

/-- Settles O10: the values are those `doReset` writes, PC is the word of its two vector bytes, and neither memory nor the
cartridge changes, on which every byte that is no device's depends. -/
theorem resetLeavesSpecState : Obligations.ResetLeavesSpecState := by
  refine ⟨fun s => ⟨rfl, rfl, rfl, rfl, rfl, rfl, rfl, rfl, rfl, rfl, ?nmi, ?pc, rfl, rfl, rfl, fun a ha => ?byte⟩, ?fixed⟩
  case nmi => exact BitVec.msb_zero
  case pc => exact word16_toNat _ _
  case byte => exact peek_congr s (doReset s) a ha rfl rfl
  case fixed =>
    rw [doReset, ← reset_pc]
    rfl

/-! ## Costs -/

/-- An index carries into the page exactly where the low byte of the base and the index sum past 255, around the end of the
address space too (30_encoding.md R106). -/
theorem page_add_zext16_ne (base : Addr) (v : Byte) :
    (page (base + zext16 v) != page base) = decide (256 ≤ base.toNat % 256 + v.toNat) := by
  have hbase := base.isLt
  have hv := v.isLt
  have hpages : page (base + zext16 v) = page base ↔ base.toNat % 256 + v.toNat < 256 := by
    rw [page, page, ← BitVec.toNat_inj, hiByte_toNat, hiByte_toNat, add_zext16_toNat]
    omega
  rw [Bool.eq_iff_iff, bne_iff_ne, ne_eq, hpages, Nat.not_lt, decide_eq_true_iff]

theorem add_extra_crossing (cost low index : Nat) :
    cost + extra (decide (256 ≤ low + index)) = if low + index < 256 then cost else cost + 1 := by
  by_cases h : 256 ≤ low + index
  · rw [if_neg (Nat.not_lt.2 h), extra, if_pos (decide_eq_true h)]
  · rw [if_pos (Nat.not_le.1 h), extra, if_neg (by simpa using h), Nat.add_zero]

/-- Settles O53: the costs are those of the table, and the three forms that pay for a carry are `page_add_zext16_ne`. -/
theorem costsByOperandForm : Obligations.CostsByOperandForm := by
  intro s z base
  refine ⟨rfl, rfl, rfl, rfl, rfl, rfl, ?absx, ?absy, ?indy, rfl, rfl, rfl, rfl, rfl, rfl, rfl, rfl, rfl, rfl, rfl, rfl⟩
  case absx => rw [readCost, crossed, ea, indexBase, page_add_zext16_ne, add_extra_crossing]
  case absy => rw [readCost, crossed, ea, indexBase, page_add_zext16_ne, add_extra_crossing]
  case indy =>
    have hlow : (zpPointer s z).toNat % 256 = (Memory.read s.mem z.toNat).toNat := by
      rw [zpPointer_toNat, Nat.add_mul_mod_self_left, Nat.mod_eq_of_lt (BitVec.isLt _)]
    rw [readCost, crossed, ea, indexBase, page_add_zext16_ne, add_extra_crossing, hlow]

end Sys2Proof.Machine
end


section
/-! PROOFS. Serialization and the saved copy (spec 70_reset_and_hazards.md R331). -/

namespace Sys2Proof.Machine

/-! ## Serialization -/

/-- Every field is present, so nothing of the live machine is left. -/
theorem deserialize_serialize (m live : Console) : live.deserialize m.serialize = m := rfl

/-- A missing field leaves the live value. -/
theorem getD_of_missing {α : Type} {field : Option α} {live : α} (h : field = none) : field.getD live = live := by
  rw [h, Option.getD_none]

/-- Settles O60: every field is read as `getD` of the serialized one, with the live value as default. -/
theorem deserializeReplacesMachine : Obligations.DeserializeReplacesMachine := by
  refine ⟨deserialize_serialize, fun m live inputs => ?frame, fun f live => ?missing⟩
  case frame => rw [deserialize_serialize]
  case missing =>
    and_intros
    all_goals exact getD_of_missing

/-! ## The saved copy -/

/-- The cartridge stays inserted through every run of `runCycle`s. -/
theorem runCycles_cart (inputs : List CycleInput) {c d : Console} (hcart : c.cpu.cart.isSome = true)
    (h : runCycles inputs c = .next d) : d.cpu.cart.isSome = true := by
  induction inputs generalizing c with
  | nil => cases h; exact hcart
  | cons inp inputs ih =>
    obtain ⟨t, -, htcart, hrun⟩ := runCycle_answers inp hcart
    rw [runCycles, hrun] at h
    exact ih ((congrArg _ (apuPhase_cart inp t)).trans htcart) h

theorem Emulator.backup_eq {e : Emulator} (h : e.now.cpu.cart.isSome = true) :
    e.backup = { e with saved := some e.now } := if_pos h

theorem Emulator.restore_eq {e : Emulator} (h : e.now.cpu.cart.isSome = true) :
    e.restore = { e with now := e.saved.getD e.now } := if_pos h

/-- Settles O56: the cartridge the backup found is still there, so the restore acts, and the copy is the one saved. -/
theorem restoreUndoesRunCycles : Obligations.RestoreUndoesRunCycles := by
  intro e inputs d hcart hrun
  have hnow : e.backup.now = e.now := by rw [Emulator.backup_eq hcart]
  rw [hnow] at hrun
  rw [Emulator.restore_eq (runCycles_cart inputs hcart hrun), Emulator.backup_eq hcart, Option.getD_some]

end Sys2Proof.Machine
end


section
/-! PROOFS. The instruction-level view of time and the one-cycle view (spec 70_reset_and_hazards.md R320; D20). -/

namespace Sys2Proof.Machine

/-! ## What the boundary does to the timing state -/

/-- The reset request and the timing state (10_state.md R39, R40). -/
def State.timing (s : State) : Bool × Nat × Nat := (s.resetReq, s.cycles, s.skip)

theorem fetchBytes_timing (n : Nat) (s : State) : (fetchBytes n s).2.timing = s.timing := by
  induction n generalizing s with
  | zero => rfl
  | succ n ih => exact (ih _).trans (by simp [State.timing, fetch])

theorem fetchInstr_timing (s : State) : (fetchInstr s).2.timing = s.timing :=
  (fetchBytes_timing _ _).trans (by simp [State.timing, fetch])

/-- With no reset to take, the boundary charges a cycle or more and counts none yet (R320). -/
theorem boundary_timing {s t : State} (hreset : s.resetReq = false) (h : boundary s = .next t) :
    t.resetReq = false ∧ t.cycles = s.cycles ∧ s.skip < t.skip := by
  obtain ⟨hr, -⟩ | ⟨-, -, rfl⟩ | ⟨-, -, -, -, rfl⟩ | ⟨-, -, -, he⟩ := boundary_cases h
  · rw [hreset] at hr
    cases hr
  · simp [hreset]
  · simp [hreset]
  · obtain ⟨-, -, hr, hcycles⟩ := exec_inputs he
    have hskip := exec_skip_lt he
    have hfetch := fetchInstr_timing s
    simp only [State.timing, Prod.mk.injEq] at hfetch
    obtain ⟨hfr, hfc, hfs⟩ := hfetch
    exact ⟨hr.trans (hfr.trans hreset), hcycles.trans hfc, hfs ▸ hskip⟩

/-! ## CPU cycles -/

/-- One cycle of a stall passes and is counted. -/
def State.waitCycle (s : State) : State := { s with skip := s.skip - 1, cycles := s.cycles + 1 }

theorem settle_waitCycle {s : State} (h : 0 < s.skip) : s.waitCycle.settle = s.settle := by
  have hcycles : s.cycles + 1 + (s.skip - 1) = s.cycles + s.skip := by omega
  simp only [State.settle, State.waitCycle, hcycles]

theorem takeReset_of_not_requested {s : State} (h : s.resetReq = false) : s.takeReset = s := by
  rw [State.takeReset, h]
  rfl

/-- A CPU cycle in a stall waits one cycle of it out (R320). -/
theorem cpuCycle_stalled {s : State} (hcart : s.cart.isSome = true) (hreset : s.resetReq = false) (hskip : 0 < s.skip) :
    cpuCycle s = .next s.waitCycle := by
  obtain ⟨c, hc⟩ := Option.isSome_iff_exists.1 hcart
  simp only [cpuCycle, hc, takeReset_of_not_requested hreset, if_pos hskip, State.waitCycle]

/-- A CPU cycle at a boundary is the boundary's action and the first cycle of what it charges (R320). -/
theorem cpuCycle_boundary {s t : State} (hcart : s.cart.isSome = true) (hreset : s.resetReq = false) (hskip : s.skip = 0)
    (h : boundary s = .next t) : cpuCycle s = .next t.waitCycle := by
  obtain ⟨c, hc⟩ := Option.isSome_iff_exists.1 hcart
  simp only [cpuCycle, hc, takeReset_of_not_requested hreset, hskip, Nat.lt_irrefl, if_false, h, State.waitCycle]

theorem cpuCycles_succ {s t : State} (n : Nat) (h : cpuCycle s = .next t) : cpuCycles (n + 1) s = cpuCycles n t := by
  rw [cpuCycles, h]

/-- As many CPU cycles as a stall has left are its passing. -/
theorem cpuCycles_skip {s : State} {n : Nat} (hcart : s.cart.isSome = true) (hreset : s.resetReq = false)
    (hskip : s.skip = n) : cpuCycles n s = .next s.settle := by
  induction n generalizing s with
  | zero => rw [settle_of_skip_zero s hskip, cpuCycles]
  | succ n ih =>
    have hpos : 0 < s.skip := by omega
    have hrest : s.waitCycle.skip = n := Nat.sub_eq_of_eq_add hskip
    rw [cpuCycles_succ n (cpuCycle_stalled hcart hreset hpos), ih (s := s.waitCycle) hcart hreset hrest,
      settle_waitCycle hpos]

/-- Settles O54: the first cycle is the boundary's action, the others are the passing of the stall it leaves. -/
theorem stepIsItsCpuCycles : Obligations.StepIsItsCpuCycles := by
  intro s t hskip hreset h
  obtain ⟨hcart, u, hu, rfl⟩ := step_cases h
  rw [settle_of_skip_zero s hskip] at hu
  obtain ⟨hureset, hucycles, huskip⟩ := boundary_timing hreset hu
  have hpos : 0 < u.skip := by omega
  have hucart : u.cart.isSome = true := (isSome_cart_of_imageOf (boundary_imageOf hcart hskip hu)).trans hcart
  obtain ⟨n, hn⟩ : ∃ n, u.skip = n + 1 := Nat.exists_eq_add_one.2 hpos
  have hrest : u.waitCycle.skip = n := Nat.sub_eq_of_eq_add hn
  refine ⟨n + 1, by omega, by rw [settle_cycles, hucycles, hn], rfl, ?_⟩
  rw [cpuCycles_succ n (cpuCycle_boundary hcart hreset hskip hu),
    cpuCycles_skip (s := u.waitCycle) hucart hureset hrest, settle_waitCycle hpos]

end Sys2Proof.Machine
end


section
/-! PROOFS. Host and platform events keep a legal state legal (spec 70_reset_and_hazards.md R330; 20_memory.md R75). -/

namespace Sys2Proof.Machine

/-! ## What is loaded is canonical -/

theorem Memory.wfAbove_ofBytes {lo : Option Nat} {k : Nat} (vs : List Byte) (hlo : lo.all (· < k) = true) :
    Memory.wfAbove lo (Memory.ofBytes k vs) = true := by
  induction vs generalizing lo k with
  | nil => rfl
  | cons v vs ih => exact Memory.wfAbove_cons (ih (decide_eq_true k.lt_succ_self)) hlo

theorem Memory.lt_of_mem_ofBytes {k : Nat} {vs : List Byte} {c : Host.Cell} (h : c ∈ Memory.ofBytes k vs) :
    c.1 < k + vs.length := by
  induction vs generalizing k with
  | nil => cases h
  | cons v vs ih =>
    rw [Memory.ofBytes, Memory.cons] at h
    rw [List.length_cons]
    split at h
    · have := ih h
      omega
    · rcases List.mem_cons.1 h with rfl | h
      · exact Nat.lt_add_of_pos_right vs.length.succ_pos
      · have := ih h
        omega

/-- A piece of an image is a memory in canonical form within the piece's size. -/
theorem Memory.legal_ofBytes_take (bytes : List Byte) (size : Nat) :
    Memory.wf (Memory.ofBytes 0 (bytes.take size)) = true ∧
      (Memory.ofBytes 0 (bytes.take size)).all (fun c => c.1 < size) = true := by
  refine ⟨Memory.wfAbove_ofBytes _ rfl, List.all_eq_true.2 fun c hc => decide_eq_true ?_⟩
  have hlt := Memory.lt_of_mem_ofBytes hc
  have hsize := List.length_take_le size bytes
  omega

theorem Mapper.legal_ofId {id : Byte} {m : Mapper} (h : Mapper.ofId id = some m) : m.legal = true := by
  unfold Mapper.ofId at h
  split at h <;> cases h <;> rfl

/-- Every image that loads makes a legal cartridge. -/
theorem Cartridge.legal_ofImage {image : List Byte} {c : Cartridge} (h : Cartridge.ofImage image = some c) :
    c.legal = true := by
  obtain ⟨m, hm, rfl⟩ := Cartridge.ofImage_cases h
  obtain ⟨hprgWf, hprgSize⟩ := Memory.legal_ofBytes_take (image.drop 16) (16384 * (image.getD 4 0).toNat)
  obtain ⟨hchrWf, hchrSize⟩ := Memory.legal_ofBytes_take (image.drop (16 + 16384 * (image.getD 4 0).toNat))
    (8192 * (image.getD 5 0).toNat)
  simp only [Cartridge.legal, Bool.and_eq_true]
  exact ⟨⟨⟨⟨hprgWf, hprgSize⟩, hchrWf⟩, hchrSize⟩, Mapper.legal_ofId hm⟩

/-! ## What an ejected cartridge leaves is canonical -/

theorem Memory.wfAbove_filter {lo : Option Nat} {m : Memory} (p : Host.Cell → Bool) (h : Memory.wfAbove lo m = true) :
    Memory.wfAbove lo (m.filter p) = true := by
  induction m generalizing lo with
  | nil => rfl
  | cons c m ih =>
    simp only [Memory.wfAbove, Bool.and_eq_true] at h
    obtain ⟨⟨hlo, hlisted⟩, hm⟩ := h
    cases hp : p c with
    | true =>
      rw [List.filter_cons_of_pos hp]
      simp only [Memory.wfAbove, Bool.and_eq_true]
      exact ⟨⟨hlo, hlisted⟩, ih hm⟩
    | false =>
      rw [List.filter_cons_of_neg (by simp [hp])]
      refine Memory.wfAbove_weaken (ih hm) ?_
      cases lo with
      | none => rfl
      | some l => exact decide_eq_true (of_decide_eq_true hlo).le

/-- Ejecting a cartridge keeps the state legal. -/
theorem eject_legal {s : State} (h : s.legal = true) : s.eject.legal = true := by
  simp only [State.legal, Picture.legal, Bool.and_eq_true] at h ⊢
  obtain ⟨⟨⟨⟨hwf, hcells⟩, -⟩, hppu⟩, ⟨hnametables, hpalette⟩, -⟩ := h
  have hinternal : (Memory.internal s.mem).all (fun c => isStorageCell c.1) = true :=
    List.all_eq_true.2 fun c hc => List.all_eq_true.1 hcells c (List.mem_of_mem_filter hc)
  exact ⟨⟨⟨⟨Memory.wfAbove_filter _ hwf, hinternal⟩, rfl⟩, hppu⟩, ⟨hnametables, hpalette⟩, rfl⟩

/-- Inserting a legal cartridge keeps the state legal. -/
theorem insert_legal {s : State} {c : Cartridge} (hc : c.legal = true) (h : s.legal = true) :
    (s.insert c).legal = true := by
  have heject := eject_legal h
  simp only [State.legal, Bool.and_eq_true] at heject
  obtain ⟨⟨⟨hmem, -⟩, hppu⟩, hpicture⟩ := heject
  refine doReset_legal ?_
  simp only [State.legal, Bool.and_eq_true]
  exact ⟨⟨⟨hmem, hc⟩, hppu⟩, hpicture⟩

/-- Settles O52, event by event. -/
theorem hostEventsKeepLegal : Obligations.HostEventsKeepLegal := by
  intro e s h
  cases e with
  | loadCartridge image =>
    cases hc : Cartridge.ofImage image with
    | none => rwa [hostEvent_load_none s hc]
    | some c =>
      rw [hostEvent_load_some s hc]
      exact insert_legal (Cartridge.legal_ofImage hc) h
  | removeCartridge => exact eject_legal h
  | reset => exact h
  | ppuCycle hit => exact ppuCycle_legal hit h
  | irqLevel level => exact h
  | buttons port bitmap => exact emit_legal (.buttons port bitmap) h
  | sampleFetch a => exact memRead_legal a h

end Sys2Proof.Machine
end
